-- ==== Sys2Proof/Word.lean ====
section
/-! DEFINITION. The word types of the EEPROM bus master (spec/00_scope.md R9): widths only, no meaning. -/

namespace Sys2Proof

/-- The 8-bit unit of transfer (R9, `DATA_WIDTH = 8`). -/
abbrev Byte := BitVec 8

/-- The 16-bit address of one EEPROM byte (R9, `ADDR_WIDTH = 16`), also the width of `SR` (`SR_WIDTH = 16`). -/
abbrev Addr := BitVec 16

/-- The 7-bit serial device address (R9, `DEVADDR_WIDTH = 7`). -/
abbrev DevAddr := BitVec 7

/-- The 32-bit host command word `CMD[31:0]` (30_encoding.md R80). -/
abbrev CmdWord := BitVec 32

end Sys2Proof
end

