-- ==== Sys2Proof/Syntax.lean ====
section
/-! DEFINITION. The operations of the block as syntax: the two variants, the five operations, the ten
instructions of spec/opcode_table.json, and the host's calls as EP writes them (30_encoding.md R98). -/

namespace Sys2Proof

/-- The strap `VARIANT` (00_scope.md R2, R10): which driver the block is, fixed for its life. -/
inductive Variant where
  | serial
  | parallel
deriving DecidableEq, Repr

/-- The five operations, the "capability set" of R2. -/
inductive Op where
  | setup
  | init
  | read
  | write
  | disable
deriving DecidableEq, Repr

/-- One host operation on one variant (R12): one constructor per row of spec/opcode_table.json. Fields that an
operation ignores (30_encoding.md R82) are not operands. -/
inductive Instr where
  /-- `S.SETUP` (R150). -/
  | sSetup
  /-- `S.INIT` (R151). -/
  | sInit
  /-- `S.READ` (R152). -/
  | sRead (address : Addr)
  /-- `S.WRITE` (R153). -/
  | sWrite (address : Addr) (value : Byte)
  /-- `S.DISABLE` (R154). -/
  | sDisable
  /-- `P.SETUP` (R171). -/
  | pSetup
  /-- `P.INIT` (R172). -/
  | pInit
  /-- `P.READ` (R173). -/
  | pRead (address : Addr)
  /-- `P.WRITE` (R174). -/
  | pWrite (address : Addr) (value : Byte)
  /-- `P.DISABLE` (R175). -/
  | pDisable
deriving DecidableEq, Repr

/-- The variant whose row of the opcode table the instruction is (R100). -/
def Instr.variant : Instr → Variant
  | .sSetup | .sInit | .sRead _ | .sWrite _ _ | .sDisable => .serial
  | .pSetup | .pInit | .pRead _ | .pWrite _ _ | .pDisable => .parallel

/-- The operation of the capability set that the instruction is (R81). -/
def Instr.op : Instr → Op
  | .sSetup | .pSetup => .setup
  | .sInit | .pInit => .init
  | .sRead _ | .pRead _ => .read
  | .sWrite _ _ | .pWrite _ _ => .write
  | .sDisable | .pDisable => .disable

/-- A line of a host program (R98): a call with its numerals as written, not yet checked against their ranges. -/
inductive Call where
  | setup
  | init
  | readByte (address : Nat)
  | writeByte (address value : Nat)
  | disable
deriving DecidableEq, Repr

end Sys2Proof
end

