-- ==== Sys2Proof/Config.lean ====
section
/-! DEFINITION. What an implementation fixes (the parameters of 00_scope.md R10) and the free values: opaque constants with
no body, one for each value the spec leaves unspecified (the "draws" of R18). -/

namespace Sys2Proof

/-! ## The parameters (R10): arguments of every statement -/

/-- The parameters to which EP gives a value, "each also a parameter" (92_eei_decisions.md D14, U9). -/
structure Constants where
  /-- `BUS_RATE_HZ`: the serial bus clock rate. -/
  busRateHz : Nat
  /-- `READ_SENTINEL`: the byte serial readByte returns when the bus yields no byte (30_encoding.md R96). -/
  readSentinel : Byte
  /-- `T_SER_WP_US`: serial, wait after releasing write-protect, in microseconds. -/
  tSerWpUs : Nat
  /-- `T_SER_WRITE_MS`: serial, settle delay after the write transaction, in milliseconds. -/
  tSerWriteMs : Nat
  /-- `T_SER_PROTECT_MS`: serial, wait after re-asserting write-protect, in milliseconds. -/
  tSerProtectMs : Nat
  /-- `T_PAR_POWER_MS`: parallel, power/settle delay at the end of init, in milliseconds. -/
  tParPowerMs : Nat
  /-- `T_PAR_OE_US`: parallel, wait after asserting output-enable, in microseconds. -/
  tParOeUs : Nat
  /-- `T_PAR_OE_OFF_US`: parallel, wait after de-asserting output-enable, in microseconds. -/
  tParOeOffUs : Nat
  /-- `T_PAR_SETUP_US`: parallel, wait after driving the data lines, in microseconds. -/
  tParSetupUs : Nat
  /-- `T_PAR_WE_US`: parallel, write-enable low pulse width, in microseconds. -/
  tParWeUs : Nat
  /-- `T_PAR_WRITE_MS`: parallel, wait for the chip's internal write cycle, in milliseconds. -/
  tParWriteMs : Nat
deriving DecidableEq, Repr

/-- The values this hardware takes: the third column of R10. -/
def Constants.given : Constants where
  busRateHz := 400000
  readSentinel := 0xFF#8
  tSerWpUs := 1
  tSerWriteMs := 5
  tSerProtectMs := 5
  tParPowerMs := 100
  tParOeUs := 1
  tParOeOffUs := 1
  tParSetupUs := 1
  tParWeUs := 1
  tParWriteMs := 10

/-- `PIN_*`: the physical pin of each line of 10_state.md R26 and R27 (D22). No rule reads them. -/
structure Pins where
  a0 : Nat
  a1 : Nat
  a2 : Nat
  pwr : Nat
  wp : Nat
  bclk : Nat
  bdat : Nat
  d0 : Nat
  d1 : Nat
  d2 : Nat
  d3 : Nat
  d4 : Nat
  d5 : Nat
  d6 : Nat
  d7 : Nat
  shclk : Nat
  shdat : Nat
  shen : Nat
  we : Nat
  oe : Nat
  pwren : Nat
deriving DecidableEq, Repr

/-- The pins of a variant's lines are "pairwise distinct within a variant" (D22). -/
def Pins.distinct (p : Pins) : Variant → Bool
  | .serial => decide [p.a0, p.a1, p.a2, p.pwr, p.wp, p.bclk, p.bdat].Nodup
  | .parallel =>
    decide [p.d0, p.d1, p.d2, p.d3, p.d4, p.d5, p.d6, p.d7, p.shclk, p.shdat, p.shen, p.we, p.oe, p.pwren].Nodup

/-- All the parameters. They are fixed for the life of the block (R35: "not state, but parameters of the step relation"); a
state carries them in one field that no step changes, so that a statement for every state is a statement for every choice of
them. -/
structure Params where
  /-- `VARIANT` (D3). -/
  variant : Variant
  /-- The parameters with a value in R10 (D14). -/
  constants : Constants
  /-- `PIN_*` (D22). -/
  pins : Pins
  /-- `DEV_TYPE[3:0]`, the upper four bits of the device address (D12). -/
  devType : BitVec 4
  /-- `ADDR_BITS`, the number of address bits the attached chip decodes, 1 to 16 (D17). -/
  addrBits : Nat
  /-- `T_WC_SER`, the serial chip's write-cycle time in microseconds (D18). -/
  tWcSer : Nat
  /-- `T_WC_PAR`, the parallel chip's write-cycle time in microseconds (D18). -/
  tWcPar : Nat
  /-- `T_RDY_SER`, the serial chip's power-up time in microseconds (D18). -/
  tRdySer : Nat
  /-- `T_RDY_PAR`, the parallel chip's power-up time in microseconds (D18). -/
  tRdyPar : Nat
  /-- `PRESENT` (20_memory.md R67), and for the parallel variant whether a chip is attached at all (R74, R191 (b)). -/
  present : Bool
  /-- The named premise `NO_WRITE_BEFORE_READY` (93_implementation_defined.md U16): the parallel chip ignores write pulses
  before it is ready after power-up. -/
  noWriteBeforeReady : Bool
deriving DecidableEq, Repr

/-- The range of `ADDR_BITS` (R10) and the time bounds an environment obeys (20_memory.md R71). -/
def Params.timely (p : Params) : Bool :=
  decide (1 ≤ p.addrBits) && decide (p.addrBits ≤ 16)
    && decide (p.tWcPar ≤ p.constants.tParWriteMs * 1000)
    && decide (p.tWcSer ≤ (p.constants.tSerWriteMs + p.constants.tSerProtectMs) * 1000)
    && decide (p.tRdyPar ≤ p.constants.tParPowerMs * 1000)
    && decide (p.tRdySer = 0)

/-- The parameters that `State.reset` carries: the constants as R10 gives them, and for the open ones (log entries 1, 2, 3 and
26) a DESIGN CHOICE, PRESUMED for `DEV_TYPE = 1010`, the default of D12. No statement rests on the open ones but those that
name `State.reset`. -/
def Params.reference : Params where
  variant := .serial
  constants := .given
  pins :=
    { a0 := 0, a1 := 1, a2 := 2, pwr := 3, wp := 4, bclk := 5, bdat := 6
      d0 := 0, d1 := 1, d2 := 2, d3 := 3, d4 := 4, d5 := 5, d6 := 6, d7 := 7
      shclk := 8, shdat := 9, shen := 10, we := 11, oe := 12, pwren := 13 }
  devType := 0b1010#4
  addrBits := 16
  tWcSer := 10000
  tWcPar := 10000
  tRdySer := 0
  tRdyPar := 100000
  present := true
  noWriteBeforeReady := false

/-! ## Free values: the draws (R18, R29), each applied to a fresh index of `State.draws` -/

/-- A level that nothing determines: a floating or transport-owned line (10_state.md R29, D4). The second argument tells apart
the lines that are observed at the same time. -/
opaque Config.freeBit : Nat → Nat → Bool

/-- A byte that nothing determines: `RDATA` of a readByte outside the Active phase (U2), the value of an indeterminate write
pulse (20_memory.md R66). -/
opaque Config.freeByte : Nat → Byte

/-- Sixteen bits that nothing determines: undriven address pins (R66), a shift register whose clock line floats (R178), the
serial chip's pointer after power-up (R67). -/
opaque Config.freeAddr : Nat → Addr

/-- The answer of a bus request on a transport that is not started (R119: unspecified; U2): a byte or none. -/
opaque Config.freeAnswer : Nat → Option Byte

/-- The EEPROM contents after a readByte or writeByte outside the Active phase (U1, 70_reset_and_hazards.md R232). -/
opaque Config.freeCells : Nat → List Host.Cell

end Sys2Proof
end

