-- ==== Sys2Proof/WellFormed.lean ====
section
/-! DEFINITION. Which instructions a block of a given variant has (R83, R130), and which host calls assemble (R98). -/

namespace Sys2Proof

/-- An instruction is well formed for a block strapped `v` when it is a row of that variant: a command runs "the rule of
the built variant" (41_eepromio_contract.md R130), so the other variant's rows do not exist in that block. -/
def Instr.wellFormed (v : Variant) (i : Instr) : Bool :=
  decide (i.variant = v)

/-- A call is well formed when its numerals are in range (R98): "`address` in 0..65535, `value` in 0..255". -/
def Call.wellFormed : Call → Bool
  | .setup | .init | .disable => true
  | .readByte address => decide (address ≤ 65535)
  | .writeByte address value => decide (address ≤ 65535) && decide (value ≤ 255)

end Sys2Proof
end

