-- ==== Sys2Proof/Decode.lean ====
section
/-! DEFINITION. The host command word (spec/30_encoding.md R80 to R86, R98): decoder, encoder, assembler. -/

namespace Sys2Proof

/-- Why a command word is reserved (R85). -/
inductive DecodeError where
  /-- `CMD[31:27] != 0` (R85). -/
  | zeroFieldSet
  /-- `op` in {0, 6, 7} (R81, R85). -/
  | reservedOp
deriving DecidableEq, Repr

/-! ## The fields of `CMD` (R80) -/

/-- `CMD[31:27]`, "must be `0b00000`". -/
def cmdZero (w : CmdWord) : BitVec 5 := w.extractLsb' 27 5

/-- `CMD[26:24]`, the operation code. -/
def cmdOp (w : CmdWord) : BitVec 3 := w.extractLsb' 24 3

/-- `CMD[23:8]`, copied to `ADDR[15:0]`. -/
def cmdAddress (w : CmdWord) : Addr := w.extractLsb' 8 16

/-- `CMD[7:0]`, copied to `WDATA[7:0]`. -/
def cmdValue (w : CmdWord) : Byte := w.extractLsb' 0 8

/-- The operation codes of R81: 1 SETUP, 2 INIT, 3 READ, 4 WRITE, 5 DISABLE; 0, 6 and 7 are reserved. -/
def opOfCode (c : BitVec 3) : Option Op :=
  if c = 1#3 then some .setup
  else if c = 2#3 then some .init
  else if c = 3#3 then some .read
  else if c = 4#3 then some .write
  else if c = 5#3 then some .disable
  else none

/-- The row of R100 that a variant, an operation and the operand fields select. -/
def instrOf (v : Variant) (op : Op) (a : Addr) (x : Byte) : Instr :=
  match v, op with
  | .serial, .setup => .sSetup
  | .serial, .init => .sInit
  | .serial, .read => .sRead a
  | .serial, .write => .sWrite a x
  | .serial, .disable => .sDisable
  | .parallel, .setup => .pSetup
  | .parallel, .init => .pInit
  | .parallel, .read => .pRead a
  | .parallel, .write => .pWrite a x
  | .parallel, .disable => .pDisable

/-- The decoder of a block strapped `v`: total on every word, reserved words rejected by name (R85). The strap does not change
how a word is decoded, only which rule the operation runs (R83, R86). -/
def decode (v : Variant) (w : CmdWord) : Except DecodeError Instr :=
  if cmdZero w = 0#5 then
    match opOfCode (cmdOp w) with
    | some op => .ok (instrOf v op (cmdAddress w) (cmdValue w))
    | none => .error .reservedOp
  else .error .zeroFieldSet

/-! ## The encoder -/

/-- The operation code of R81. -/
def codeOfOp : Op → BitVec 3
  | .setup => 1#3
  | .init => 2#3
  | .read => 3#3
  | .write => 4#3
  | .disable => 5#3

/-- The word `{00000, op, address, value}` of R80. -/
def packCmd (c : BitVec 3) (a : Addr) (x : Byte) : CmdWord :=
  0#5 ++ c ++ a ++ x

/-- The address field of the canonical encoding; an ignored field is zero (R82). -/
def Instr.addressField : Instr → Addr
  | .sRead a | .pRead a | .sWrite a _ | .pWrite a _ => a
  | .sSetup | .sInit | .sDisable | .pSetup | .pInit | .pDisable => 0#16

/-- The value field of the canonical encoding; an ignored field is zero (R82). -/
def Instr.valueField : Instr → Byte
  | .sWrite _ x | .pWrite _ x => x
  | .sRead _ | .pRead _ | .sSetup | .sInit | .sDisable | .pSetup | .pInit | .pDisable => 0#8

/-- The canonical command word of an instruction (R82). -/
def encode (i : Instr) : CmdWord :=
  packCmd (codeOfOp i.op) i.addressField i.valueField

/-- The canonical word of a host call; "a numeral outside its range is an assembly error; the assembler does not truncate"
(R98). -/
def assemble (c : Call) : Option CmdWord :=
  if c.wellFormed then
    some (match c with
      | .setup => packCmd 1#3 0#16 0#8
      | .init => packCmd 2#3 0#16 0#8
      | .readByte a => packCmd 3#3 (BitVec.ofNat 16 a) 0#8
      | .writeByte a x => packCmd 4#3 (BitVec.ofNat 16 a) (BitVec.ofNat 8 x)
      | .disable => packCmd 5#3 0#16 0#8)
  else none

/-! ## The opcode table's reading -/

/-- The command word that the low `nbits` bits of `w` stand for; every bit above them is 0. -/
def tableWord (nbits w : Nat) : CmdWord :=
  BitVec.ofNat 32 (w % 2 ^ nbits)

/-- The instruction the decoder reads from a word of the opcode table. The table has two rows for each word, one per strap
(R83), and a word does not say which; this reads it with the strap that `State.reset` carries (log entry 1). -/
def decodeTableWord (nbits w : Nat) : Option Instr :=
  match decode Params.reference.variant (tableWord nbits w) with
  | .ok i => some i
  | .error _ => none

end Sys2Proof
end

