-- ==== Sys2Proof/Machine/State.lean ====
section
/-! DEFINITION. The state of the block, of the command port's host side and of the reference environment, as plain data
(spec/10_state.md; 20_memory.md R64 and R67), the reasons a step can stop, and the state after reset (R37). -/

namespace Sys2Proof.Machine

/-! ## Lines -/

/-- The direction of a line (R13, R28): input/high-impedance, or output. -/
inductive Dir where
  | input
  | output
deriving DecidableEq, Repr

/-- The two one-bit registers of a line (R28): `DIR[L]` and `LAT[L]`. -/
structure LineReg where
  /-- `DIR[L]`. -/
  dir : Dir
  /-- `LAT[L]`, the last level written by `PinSet`. -/
  lat : Bool
deriving DecidableEq, Repr

/-- The seven lines of the serial variant (R26). -/
inductive SLine where
  | a0 | a1 | a2 | pwr | wp | bclk | bdat
deriving DecidableEq, Repr

/-- The fourteen lines of the parallel variant (R27). -/
inductive PLine where
  | d0 | d1 | d2 | d3 | d4 | d5 | d6 | d7
  | shclk | shdat | shen | we | oe | pwren
deriving DecidableEq, Repr

/-- A line of either variant. -/
inductive Line where
  | ser (l : SLine)
  | par (l : PLine)
deriving DecidableEq, Repr

/-- The line registers of the serial variant, in the line order of R26. -/
structure SerialLines where
  a0 : LineReg
  a1 : LineReg
  a2 : LineReg
  pwr : LineReg
  wp : LineReg
  bclk : LineReg
  bdat : LineReg
deriving DecidableEq, Repr

/-- The line registers of the parallel variant, in the line order of R27. -/
structure ParallelLines where
  d0 : LineReg
  d1 : LineReg
  d2 : LineReg
  d3 : LineReg
  d4 : LineReg
  d5 : LineReg
  d6 : LineReg
  d7 : LineReg
  shclk : LineReg
  shdat : LineReg
  shen : LineReg
  we : LineReg
  oe : LineReg
  pwren : LineReg
deriving DecidableEq, Repr

/-- The level a line presents to whatever is wired to it (R29): a level, or nothing that determines one, so that every
observation of it is a draw. -/
inductive Level where
  | low
  | high
  | undriven
deriving DecidableEq, Repr

/-! ## Trace events (R15) -/

/-- One micro-operation as the trace records it. -/
inductive Event where
  /-- `mode(L,d)` -/
  | mode (l : Line) (d : Dir)
  /-- `set(L,v)` -/
  | set (l : Line) (v : Bool)
  /-- `get(L)=v` -/
  | get (l : Line) (v : Bool)
  /-- `delay_us(n)` -/
  | delayUs (n : Nat)
  /-- `delay_ms(n)` -/
  | delayMs (n : Nat)
  /-- `bus_begin(rate)` -/
  | busBegin (rate : Nat)
  /-- `bus_end` -/
  | busEnd
  /-- `bus_write(dev,[b0,b1,...],stop)` -/
  | busWrite (dev : DevAddr) (bytes : List Byte) (stop : Bool)
  /-- `bus_request(dev,n,stop)=[...]` -/
  | busRequest (dev : DevAddr) (n : Nat) (stop : Bool) (answer : List Byte)
deriving DecidableEq, Repr

/-! ## The sequencer, the bus transport, the attached chip -/

/-- `SEQ` (R24): idle, or the operation in progress and the number of the step that will run next. -/
inductive Seq where
  | idle
  | running (op : Op) (k : Nat)
deriving DecidableEq, Repr

/-- The bus transport of the serial variant (R32). -/
structure Transport where
  /-- Whether a `BusBegin` has been issued with no `BusEnd` since (R116, R117). -/
  on : Bool
  /-- The clock rate register, in hertz. -/
  rateHz : Nat
  /-- `BUSHELD` (R32). -/
  held : Bool
deriving DecidableEq, Repr

/-- The EEPROM's bytes in one canonical form: addresses strictly rising, no entry equal to what an unlisted address reads
as (Memory.wf in Machine/Ops.lean). -/
abbrev Memory := List Host.Cell

/-- What the parallel chip has seen of a write pulse (20_memory.md R66): nothing, a fall of `WE` that may have been one
(seen from or with a floating line), or a fall of `WE` with `OE` high. -/
inductive Pulse where
  | idle
  | possible
  | begun
deriving DecidableEq, Repr

/-- The reference EEPROM chip wired to the lines (R64, R67). -/
structure Chip where
  /-- `MEM` (R52). -/
  mem : Memory
  /-- `RDY_AT` in microseconds; `none` is "never" (R64). -/
  rdyAt : Option Nat
  /-- `WBUSY_UNTIL` in microseconds (R64). -/
  wbusyUntil : Nat
  /-- `PTR`, the serial chip's address pointer (R67). -/
  ptr : Nat
  /-- The write pulse in progress at the parallel chip (R66). -/
  pulse : Pulse
deriving DecidableEq, Repr

/-! ## The state -/

/-- Everything the spec gives the machine; what each field is and its reset value stand in INVENTORY.md. -/
structure State where
  /-- The parameters of R10, `VARIANT` among them; no step changes them (R35). -/
  params : Params
  /-- `ADDR[15:0]` (R21). -/
  addr : Addr
  /-- `WDATA[7:0]` (R22). -/
  wdata : Byte
  /-- `RDATA[7:0]` (R23). -/
  rdata : Byte
  /-- `SEQ` (R24); `BUSY` is computed from it (R25). -/
  seq : Seq
  /-- `STARTED` (R25). -/
  started : Bool
  /-- `DIR` and `LAT` of the serial variant's lines (R26, R28). -/
  serial : SerialLines
  /-- `DIR` and `LAT` of the parallel variant's lines (R27, R28). -/
  parallel : ParallelLines
  /-- `SR[15:0]` (R31). -/
  sr : Addr
  /-- The bus transport (R32). -/
  transport : Transport
  /-- The attached chip (R64, R67). -/
  chip : Chip
  /-- `NOW` in microseconds (R114). -/
  now : Nat
  /-- The time `LAT[PWREN]` last went from 1 to 0, which `Active_P` reads (R39). -/
  pwrenLowAt : Nat
  /-- The trace, newest event first (R15). -/
  log : List Event
  /-- `r` of R152 step 2: the answer of the bus request, held until step 3. -/
  answer : List Byte
  /-- `g[0], g[1], ...` of R173 step 4: the levels sampled, held until step 7. -/
  sampled : List Bool
  /-- The command words the host has still to present (R35, R137): the first is on `CMD`, and `CMD_VALID` is 1 while there
  is one and the block is idle (R138). -/
  host : List CmdWord
  /-- The model's own: whether the variant's Active predicate held when the operation in progress was accepted (U1, U2). -/
  inPhase : Bool
  /-- The model's own: the time, beyond its stated minimum, that each coming micro-operation takes (R113 to R115); past the
  end of the list, none. -/
  slack : List Nat
  /-- The model's own: the index of the next free value. -/
  draws : Nat
deriving DecidableEq, Repr

/-! ## Stops -/

/-- No step ends in a fault: "the set of exception causes is empty" (60_exceptions.md R190), "the model's own fault outcome,
if it has one, stays unused by this block" (R197). -/
inductive Fault where
deriving DecidableEq, Repr

/-- The reasons a step is refused. Every one is safe: the model says nothing where the hardware may do something. -/
inductive Refusal where
  /-- Raised by `exec` for an instruction that has no meaning yet. Safe. -/
  | notModelled (mnemonic : String)
  /-- Raised by `step` for a reserved command word (30_encoding.md R85: "A model should give a reserved word no step and mark
  it refused"). Safe. -/
  | reservedWord (reason : DecodeError) (word : CmdWord)
  /-- Raised by every meaning for an instruction of the variant that the block is not (R83, R130); `step` never decodes
  one. Safe. -/
  | otherVariant
  /-- Raised by `P.INIT`, `P.READ` and `P.WRITE` where the block and the parallel chip would both drive the data bus (R222: "A model gives a
  contended line no level: refuse"; R197, U7). Safe. -/
  | busContention
  /-- Raised by `S.READ` and `S.WRITE` where they would issue a bus transaction on a transport that is not started: "their outcome,
  including whether they return, is not in EP" (U2: refuse; R118, R119: unspecified; R197, vector T34). Safe. -/
  | busNotStarted
  /-- Raised by `S.DISABLE` where it would issue `BusEnd` on a transport that is not started, whose effect is unspecified
  (R117, U12, vector T26: refuse). Safe. -/
  | busEndNotStarted
deriving DecidableEq, Repr

/-! ## Reset -/

/-- A line after reset in the reference fresh state of R37: `IN`, 0 (log entry 4). -/
def LineReg.fresh : LineReg := ⟨.input, false⟩

/-- The block after reset with the parameters `p` (R37, R210): `SEQ`, `BUSY`, `BUSHELD`, `NOW` and `MEM` as the spec states
them; every other register, "unspecified" by the spec, at the reference fresh state of R37 (D15) or, where that leaves it
unspecified, zero (log entries 4 and 5). -/
def State.fresh (p : Params) : State where
  params := p
  addr := 0#16
  wdata := 0#8
  rdata := 0#8
  seq := .idle
  started := false
  serial := ⟨.fresh, .fresh, .fresh, .fresh, .fresh, .fresh, .fresh⟩
  parallel := ⟨.fresh, .fresh, .fresh, .fresh, .fresh, .fresh, .fresh, .fresh, .fresh, .fresh, .fresh, .fresh, .fresh, .fresh⟩
  sr := 0#16
  transport := ⟨false, 0, false⟩
  chip := ⟨[], none, 0, 0, .idle⟩
  now := 0
  pwrenLowAt := 0
  log := []
  answer := []
  sampled := []
  host := []
  inPhase := false
  slack := []
  draws := 0

/-- The machine right after reset (R37, R210). -/
def State.reset : State := State.fresh Params.reference

end Sys2Proof.Machine
end

