-- ==== Sys2Proof/Machine/Operands.lean ====
section
/-! DEFINITION. The block's whole arithmetic (spec/30_encoding.md R88 to R96): slicing an address, the shift stream, the
data-bus bit map, the serial frames' bytes, the sentinel; and the cell an address names (20_memory.md R52). -/

namespace Sys2Proof.Machine

/-- `hi = ADDR[15:8]` (R88). -/
def hiByte (a : Addr) : Byte := a.extractLsb' 8 8

/-- `lo = ADDR[7:0]` (R88). -/
def loByte (a : Addr) : Byte := a.extractLsb' 0 8

/-- `{hi, lo}` (R13, R88). -/
def joinBytes (hi lo : Byte) : Addr := hi ++ lo

/-- The shift stream `s[0], ..., s[15]` of an address, `s[k] = a[15-k]` (R89). -/
def shiftStream (a : Addr) : List Bool :=
  (List.range 16).map fun k => a.getLsbD (15 - k)

/-- One shift of the address register: `{SR[14:0], b}` (43_parallel_driver.md R176). -/
def shiftIn (r : Addr) (b : Bool) : Addr := r.extractLsb' 0 15 ++ BitVec.ofBool b

/-- The value of a list of bits, the first the least significant: the sum over `i` of `g_i * 2^i` (R91). -/
def bitsValue : List Bool → Nat
  | [] => 0
  | b :: bs => b.toNat + 2 * bitsValue bs

/-- The byte `{g_7, ..., g_0}` assembled from the sampled levels `g_0, g_1, ...` (R91). -/
def assembleByte (g : List Bool) : Byte := BitVec.ofNat 8 (bitsValue g)

/-- The data bits of a byte, "data line index = bit position" (R90). -/
def dataBits (x : Byte) : List Bool :=
  (List.range 8).map fun i => x.getLsbD i

/-- The data lines with their bit positions, `D0` first (R27, R90, D28). -/
def dataLines : List (PLine × Nat) :=
  [(.d0, 0), (.d1, 1), (.d2, 2), (.d3, 3), (.d4, 4), (.d5, 5), (.d6, 6), (.d7, 7)]

/-- The bit position of a data line, none for the other parallel lines (R27). -/
def PLine.dataIndex : PLine → Option Nat
  | .d0 => some 0
  | .d1 => some 1
  | .d2 => some 2
  | .d3 => some 3
  | .d4 => some 4
  | .d5 => some 5
  | .d6 => some 6
  | .d7 => some 7
  | .shclk | .shdat | .shen | .we | .oe | .pwren => none

/-- `DEV_ADDR = {DEV_TYPE, 000}` (R95). -/
def devAddr (p : Params) : DevAddr := p.devType ++ 0#3

/-- The bytes of the address frame `SF-ADDR` (R92). -/
def addressFrame (a : Addr) : List Byte := [hiByte a, loByte a]

/-- The bytes of the write frame `SF-WRITE` (R94). -/
def writeFrame (a : Addr) (x : Byte) : List Byte := [hiByte a, loByte a, x]

/-- The byte serial readByte returns for an answer of the bus: its first byte, the sentinel for none (R96, R152). -/
def answerByte (p : Params) : List Byte → Byte
  | [] => p.constants.readSentinel
  | b :: _ => b

/-- `PIN_<line>` (R10, R200). -/
def Line.pin (p : Params) : Line → Nat
  | .ser .a0 => p.pins.a0
  | .ser .a1 => p.pins.a1
  | .ser .a2 => p.pins.a2
  | .ser .pwr => p.pins.pwr
  | .ser .wp => p.pins.wp
  | .ser .bclk => p.pins.bclk
  | .ser .bdat => p.pins.bdat
  | .par .d0 => p.pins.d0
  | .par .d1 => p.pins.d1
  | .par .d2 => p.pins.d2
  | .par .d3 => p.pins.d3
  | .par .d4 => p.pins.d4
  | .par .d5 => p.pins.d5
  | .par .d6 => p.pins.d6
  | .par .d7 => p.pins.d7
  | .par .shclk => p.pins.shclk
  | .par .shdat => p.pins.shdat
  | .par .shen => p.pins.shen
  | .par .we => p.pins.we
  | .par .oe => p.pins.oe
  | .par .pwren => p.pins.pwren

/-- `cell(a) = a[ADDR_BITS-1:0]`, the cell an address names: "typically address-bit truncation" (R52). -/
def cell (p : Params) (a : Addr) : Nat := a.toNat % 2 ^ p.addrBits

end Sys2Proof.Machine
end

