-- ==== Sys2Proof/Machine/Ops.lean ====
section
/-! DEFINITION. The named operations over memory, lines and registers: the EEPROM array, the line registers, the nine
micro-operations (spec/40_line_primitives.md) with the reactions of the shift register and of the reference chip
(20_memory.md R64 to R70, 43_parallel_driver.md R176, R177). Taking an exception and returning from one have no operation
here: the block has none (60_exceptions.md R190, R196). -/

namespace Sys2Proof.Machine

/-! ## The EEPROM array -/

/-- What a cell that is not listed reads as: "a never-written cell holds `0xFF`" (R37). -/
def erasedByte : Byte := 0xFF#8

/-- `MEM[a]`. -/
def Memory.read : Memory → Nat → Byte
  | [], _ => erasedByte
  | (b, v) :: m, a => if a = b then v else Memory.read m a

/-- `MEM[a] <- v`, keeping the canonical form. -/
def Memory.write : Memory → Nat → Byte → Memory
  | [], a, v => if v = erasedByte then [] else [(a, v)]
  | (b, w) :: m, a, v =>
    if a < b then (if v = erasedByte then (b, w) :: m else (a, v) :: (b, w) :: m)
    else if a = b then (if v = erasedByte then m else (a, v) :: m)
    else (b, w) :: Memory.write m a v

/-- The canonical form: addresses strictly rising, no entry equal to what an unlisted address reads as. -/
def Memory.wf : Memory → Bool
  | [] => true
  | (a, v) :: m => decide (v ≠ erasedByte) && m.all (fun c => decide (a < c.1)) && Memory.wf m

/-- Every listed cell is one the chip has (R52). -/
def Memory.within (n : Nat) (m : Memory) : Bool := m.all fun c => decide (c.1 < n)

/-- An array given as any list of cells, in canonical form over the chip's `2^ADDR_BITS` cells. -/
def Memory.ofCells (p : Params) (cells : List Host.Cell) : Memory :=
  cells.foldl (fun m c => Memory.write m (c.1 % 2 ^ p.addrBits) c.2) []

/-- `MemRead(a, 1)` (R52). -/
def State.memRead (s : State) (a : Addr) : Byte := Memory.read s.chip.mem (cell s.params a)

/-- `MemWrite(a, 1, v)` (R52). -/
def State.memWrite (a : Addr) (v : Byte) (s : State) : State :=
  { s with chip := { s.chip with mem := Memory.write s.chip.mem (cell s.params a) v } }

/-! ## Line registers -/

/-- The two registers of a serial line. -/
def SerialLines.get (b : SerialLines) : SLine → LineReg
  | .a0 => b.a0
  | .a1 => b.a1
  | .a2 => b.a2
  | .pwr => b.pwr
  | .wp => b.wp
  | .bclk => b.bclk
  | .bdat => b.bdat

/-- Write the two registers of a serial line. -/
def SerialLines.set (b : SerialLines) (l : SLine) (r : LineReg) : SerialLines :=
  match l with
  | .a0 => { b with a0 := r }
  | .a1 => { b with a1 := r }
  | .a2 => { b with a2 := r }
  | .pwr => { b with pwr := r }
  | .wp => { b with wp := r }
  | .bclk => { b with bclk := r }
  | .bdat => { b with bdat := r }

/-- The two registers of a parallel line. -/
def ParallelLines.get (b : ParallelLines) : PLine → LineReg
  | .d0 => b.d0
  | .d1 => b.d1
  | .d2 => b.d2
  | .d3 => b.d3
  | .d4 => b.d4
  | .d5 => b.d5
  | .d6 => b.d6
  | .d7 => b.d7
  | .shclk => b.shclk
  | .shdat => b.shdat
  | .shen => b.shen
  | .we => b.we
  | .oe => b.oe
  | .pwren => b.pwren

/-- Write the two registers of a parallel line. -/
def ParallelLines.set (b : ParallelLines) (l : PLine) (r : LineReg) : ParallelLines :=
  match l with
  | .d0 => { b with d0 := r }
  | .d1 => { b with d1 := r }
  | .d2 => { b with d2 := r }
  | .d3 => { b with d3 := r }
  | .d4 => { b with d4 := r }
  | .d5 => { b with d5 := r }
  | .d6 => { b with d6 := r }
  | .d7 => { b with d7 := r }
  | .shclk => { b with shclk := r }
  | .shdat => { b with shdat := r }
  | .shen => { b with shen := r }
  | .we => { b with we := r }
  | .oe => { b with oe := r }
  | .pwren => { b with pwren := r }

/-- `DIR[L]` and `LAT[L]`. -/
def State.line (s : State) : Line → LineReg
  | .ser l => s.serial.get l
  | .par l => s.parallel.get l

/-- A level as the line shows it. -/
def Level.ofBool (v : Bool) : Level := if v then .high else .low

/-- What the block itself drives a line to: `LAT` while `DIR = OUT`, nothing while `DIR = IN` (R28, R29). -/
def LineReg.drive (r : LineReg) : Level :=
  match r.dir with
  | .output => Level.ofBool r.lat
  | .input => .undriven

/-! ## The trace, time and free values -/

/-- Record an event (R15). -/
def State.emit (e : Event) (s : State) : State := { s with log := e :: s.log }

/-- The trace since reset, oldest event first (R15). -/
def State.trace (s : State) : List Event := s.log.reverse

/-- Time passes: at least `n` microseconds, by as much more as the environment takes (R113, R114, D13). -/
def State.tick (n : Nat) (s : State) : State :=
  { s with now := s.now + n + s.slack.headD 0, slack := s.slack.tail }

/-- Take the next free value: its index is `s.draws` before. -/
def State.draw (s : State) : State := { s with draws := s.draws + 1 }

/-! ## The parallel chip and the shift register -/

/-- The chip is powered by the parallel variant's `PWREN` (R64). -/
def ParallelLines.powered (b : ParallelLines) : Bool := decide (b.pwren = ⟨.output, false⟩)

/-- All eight data lines are in the direction `d`. -/
def ParallelLines.dataAll (b : ParallelLines) (d : Dir) : Bool :=
  dataLines.all fun p => decide ((b.get p.1).dir = d)

/-- The byte in the latches of the data lines, `{LAT[D7], ..., LAT[D0]}` (R90). -/
def ParallelLines.dataByte (b : ParallelLines) : Byte :=
  assembleByte (dataLines.map fun p => (b.get p.1).lat)

/-- The deadlines of the chip are past: `NOW >= RDY_AT` and `NOW >= WBUSY_UNTIL` (R64). -/
def State.deadlinesPast (s : State) : Bool :=
  match s.chip.rdyAt with
  | none => false
  | some t => decide (t ≤ s.now) && decide (s.chip.wbusyUntil ≤ s.now)

/-- The parallel chip is there, powered and ready (R64). -/
def State.parallelReady (s : State) : Bool :=
  s.params.present && s.parallel.powered && s.deadlinesPast

/-- The address pins are driven: `eff(SHEN) = 1` (R177). -/
def State.apinDriven (s : State) : Bool := decide (s.parallel.shen.drive = .high)

/-- The parallel chip drives the data bus with the byte at `APIN` (R65). -/
def State.parallelDrives (s : State) : Bool :=
  s.parallelReady && decide (s.parallel.oe.drive = .low) && decide (s.parallel.we.drive = .high)
    && s.parallel.dataAll .input && s.apinDriven

/-- Bus contention on the data bus (R65, R222): the chip is powered and `OE` is low while some data line is an output, so that
both ends drive the bus. -/
def State.contended (s : State) : Bool :=
  s.params.present && s.parallel.powered && decide (s.parallel.oe.drive = .low) && !s.parallel.dataAll .input

/-- `eff(L)` (R29): what the block drives, or the chip, or nothing that determines a level: a floating line, a line the transport
owns, and a contended line, to which "a model gives no level" (R222; log entry 12). -/
def State.eff (s : State) : Line → Level
  | .ser .bclk => if s.transport.on then .undriven else s.serial.bclk.drive
  | .ser .bdat => if s.transport.on then .undriven else s.serial.bdat.drive
  | .ser l => (s.serial.get l).drive
  | .par l =>
    match l.dataIndex with
    | none => (s.parallel.get l).drive
    | some i =>
      match (s.parallel.get l).dir with
      | .output => if s.contended then .undriven else Level.ofBool (s.parallel.get l).lat
      | .input => if s.parallelDrives then Level.ofBool ((s.memRead s.sr).getLsbD i) else .undriven

/-- The place of a line among those that are observed at the same time; it only keeps their free bits apart. -/
def Line.place : Line → Nat
  | .ser .a0 => 1
  | .ser .a1 => 2
  | .ser .a2 => 3
  | .ser .wp => 4
  | _ => 0

/-- One observation of a line: its level, or a free bit where nothing determines it (R29). -/
def State.observe (s : State) (l : Line) : Bool :=
  match s.eff l with
  | .low => false
  | .high => true
  | .undriven => Config.freeBit s.draws l.place

/-- What the shift register does when the registers of `SHCLK` go from `a` to `b` (R176): on a rise of a driven line it takes in
`eff(SHDAT)`. A write of what the registers hold already "changes nothing" (R110, R111), and making a floating line an output is no
rise (R171, R180: setup leaves `SR` as it was). A change of the latch of a floating line, or letting a low line float, leaves the
edges to nothing that determines them, and `SR` holds anything (R178); that letting a high line float keeps `SR` is the model's
choice (log entry 11). -/
def State.clockShift (a b : LineReg) (s : State) : State :=
  match a.drive, b.drive with
  | .low, .high =>
    State.draw { s with sr := shiftIn s.sr (s.observe (.par .shdat)) }
  | .low, .undriven | .undriven, .undriven =>
    if a = b then s else State.draw { s with sr := Config.freeAddr s.draws }
  | _, _ => s

/-- The chip is not yet ready after power-up (R64, U16). -/
def State.beforeReady (s : State) : Bool :=
  match s.chip.rdyAt with
  | none => true
  | some t => decide (s.now < t)

/-- The address the parallel chip takes at the end of a write pulse: `APIN`, a free one where it is undriven (R66). -/
def State.pulseAddr (s : State) : Addr := if s.apinDriven then s.sr else Config.freeAddr s.draws

/-- The end of a write pulse at the parallel chip (R66): the byte on the data bus goes to the cell at `APIN` when the chip is
ready, the pulse certain and every pin driven; else a free byte goes there, to a free cell where `APIN` is undriven, unless the
premise `NO_WRITE_BEFORE_READY` holds and the chip is not yet ready after power-up (U16). -/
def State.endPulse (certain : Bool) (s : State) : State :=
  if s.params.noWriteBeforeReady && s.beforeReady then s
  else
    let v := if certain && s.parallelReady && s.apinDriven && s.parallel.dataAll .output then s.parallel.dataByte
      else Config.freeByte s.draws
    let t := State.draw (State.memWrite s.pulseAddr v s)
    { t with chip := { t.chip with wbusyUntil := t.now + t.params.tWcPar } }

/-- The pulse the parallel chip has begun to see. -/
def State.setPulse (p : Pulse) (s : State) : State := { s with chip := { s.chip with pulse := p } }

/-- What the parallel chip does when `WE` goes from the level `a` to the level `b` (R66). A fall counts while the chip is
powered and `OE` is not driven low; one seen from or with a floating line is only possible, not certain (U16). A later rise
ends the pulse. An absent or unpowered chip sees nothing. -/
def State.clockWrite (a b : Level) (s : State) : State :=
  if s.params.present && s.parallel.powered then
    match a, b with
    | .high, .low =>
      match s.parallel.oe.drive with
      | .high => s.setPulse .begun
      | .undriven => s.setPulse .possible
      | .low => s.setPulse .idle
    | .undriven, .low => if s.parallel.oe.drive = .low then s.setPulse .idle else s.setPulse .possible
    | .low, .high | .low, .undriven =>
      if s.chip.pulse = .idle ∨ s.parallel.oe.drive = .low then s.setPulse .idle
      else
        (s.endPulse (decide (s.chip.pulse = .begun) && decide (b = .high) && decide (s.parallel.oe.drive = .high))).setPulse .idle
    | _, _ => s
  else s

/-- What the chip does when its power goes from `was` to `on` (R64, R67): power-up starts the time to readiness, with no
pulse in progress, and leaves the serial pointer unspecified; power-down loses readiness and any write cycle in progress
(60_exceptions.md R203), never the array. -/
def State.powerChange (was on : Bool) (readyTime : Nat) (s : State) : State :=
  match was, on with
  | false, true =>
    State.draw { s with chip :=
      { s.chip with
        rdyAt := some (s.now + readyTime), ptr := cell s.params (Config.freeAddr s.draws), pulse := .idle } }
  | true, false => { s with chip := { s.chip with rdyAt := none, wbusyUntil := 0, pulse := .idle } }
  | _, _ => s

/-! ## Writing a line's registers, with what is wired to the line reacting at once (R123) -/

/-- The serial chip's power: `DIR[PWR] = OUT` and `LAT[PWR] = 1` (R67). -/
def SerialLines.powered (b : SerialLines) : Bool := decide (b.pwr = ⟨.output, true⟩)

/-- Write a serial line's registers; the chip sees its power line. -/
def State.putSerial (l : SLine) (r : LineReg) (s : State) : State :=
  let t := { s with serial := s.serial.set l r }
  State.powerChange s.serial.powered t.serial.powered s.params.tRdySer t

/-- Write a parallel line's registers; the shift register sees `SHCLK`, the chip `WE` and `PWREN`. -/
def State.putParallel (l : PLine) (r : LineReg) (s : State) : State :=
  let old := s.parallel.get l
  let t := { s with parallel := s.parallel.set l r }
  match l with
  | .shclk => t.clockShift old r
  | .we => t.clockWrite old.drive r.drive
  | .pwren =>
    State.powerChange s.parallel.powered t.parallel.powered s.params.tRdyPar
      { t with pwrenLowAt := if old.lat && !r.lat then t.now else t.pwrenLowAt }
  | .d0 | .d1 | .d2 | .d3 | .d4 | .d5 | .d6 | .d7 | .shdat | .shen | .oe => t

/-- Write a line's registers. -/
def State.putLine (l : Line) (r : LineReg) (s : State) : State :=
  match l with
  | .ser l => s.putSerial l r
  | .par l => s.putParallel l r

/-! ## The nine micro-operations and `Drive` -/

/-- `PinMode(L, d)` (R110): writes `DIR[L]` only. -/
def pinMode (l : Line) (d : Dir) (s : State) : State :=
  ((s.putLine l { s.line l with dir := d }).emit (.mode l d)).tick 0

/-- `PinSet(L, v)` (R111): writes `LAT[L]` only, whatever `DIR[L]` is. -/
def pinSet (l : Line) (v : Bool) (s : State) : State :=
  ((s.putLine l { s.line l with lat := v }).emit (.set l v)).tick 0

/-- The level `PinGet(L)` returns (R112): `eff(L)`; of a parallel line in `OUT` mode the latch, contended or not (R173). -/
def pinLevel (l : Line) (s : State) : Bool :=
  match l with
  | .ser _ => s.observe l
  | .par m => if (s.parallel.get m).dir = .output then (s.parallel.get m).lat else s.observe l

/-- `PinGet(L)` (R112), the level kept as the next `g[i]` of R173: writes no state of the block. -/
def pinGet (l : Line) (s : State) : State :=
  (State.draw (({ s with sampled := s.sampled ++ [pinLevel l s] } : State).emit (.get l (pinLevel l s)))).tick 0

/-- `DelayUs(n)` (R113): at least `n` microseconds. -/
def delayUs (n : Nat) (s : State) : State := (s.emit (.delayUs n)).tick n

/-- `DelayMs(n)` (R115): at least `n` milliseconds. -/
def delayMs (n : Nat) (s : State) : State := (s.emit (.delayMs n)).tick (n * 1000)

/-- `DelayUs` of one of the parameters of R10. -/
def waitUs (t : Constants → Nat) (s : State) : State := delayUs (t s.params.constants) s

/-- `DelayMs` of one of the parameters of R10. -/
def waitMs (t : Constants → Nat) (s : State) : State := delayMs (t s.params.constants) s

/-- `BusBegin(rate)` (R116, D27): the transport is started and idle at that rate, whether it was started or not. -/
def busBegin (rate : Nat) (s : State) : State :=
  (({ s with transport := ⟨true, rate, false⟩ } : State).emit (.busBegin rate)).tick 0

/-- `BusEnd()` (R117): the transport is stopped. Issued only on a started transport (U12). -/
def busEnd (s : State) : State :=
  (({ s with transport := { s.transport with on := false } } : State).emit .busEnd).tick 0

/-- The device-select inputs of the serial chip match the zero low bits of `DEV_ADDR`: `eff(A0) = eff(A1) = eff(A2) = 0` (R67);
a free bit where a line floats. -/
def State.selected (s : State) : Bool :=
  !s.observe (.ser .a0) && !s.observe (.ser .a1) && !s.observe (.ser .a2)

/-- The serial chip responds to a bus transaction addressed to `dev` (R67). A transport that is not started reaches no chip
in the model; no operation issues a transaction on one (U2: refused, `State.stopAt`; log entry 9). -/
def State.responds (dev : DevAddr) (s : State) : Bool :=
  s.transport.on && s.params.present && s.serial.powered && s.deadlinesPast
    && decide (dev = devAddr s.params) && s.selected

/-- The address phase at a responding chip (R68): the pointer is set, whatever `WP` is. -/
def State.setPointer (a : Addr) (s : State) : State :=
  { s with chip := { s.chip with ptr := cell s.params a } }

/-- The data byte of a write frame at a responding chip (R69): stored, with a write cycle begun, when `eff(WP) = 0`; discarded
when it is 1. -/
def State.storeByte (a : Addr) (x : Byte) (s : State) : State :=
  if s.observe (.ser .wp) then s
  else
    let t := s.memWrite a x
    { t with chip := { t.chip with wbusyUntil := t.now + t.params.tWcSer } }

/-- What the serial chip does with the bytes of a bus write phase (R68, R69): two address bytes, then at most one data byte.
Frames of other lengths, and a three-byte frame without a stop, the spec leaves unspecified and the block never sends (U14): the
first do nothing here, the second stores as one with a stop does (log entry 23: the model's choice). -/
def State.takeFrame (bytes : List Byte) (s : State) : State :=
  match bytes with
  | [hi, lo] => s.setPointer (joinBytes hi lo)
  | [hi, lo, x] => (s.setPointer (joinBytes hi lo)).storeByte (joinBytes hi lo) x
  | _ => s

/-- `BusWrite(dev, bytes, stop)` (R118): the chip responds or not as it is when the transaction is issued, and has taken the
bytes when it ends. The transport keeps the bus unless the phase ends with a stop-equivalent. -/
def busWrite (dev : DevAddr) (bytes : List Byte) (stop : Bool) (s : State) : State :=
  let t := (s.emit (.busWrite dev bytes stop)).tick 0
  let u := if s.responds dev then t.takeFrame bytes else t
  State.draw { u with transport := { u.transport with held := !stop } }

/-- The answer to a one-byte bus request (R70): the byte at the pointer from a responding chip, none otherwise; anything on a
transport that is not started, on which no operation issues one (U2, log entry 9). -/
def State.requestAnswer (dev : DevAddr) (s : State) : List Byte :=
  if s.transport.on then
    if s.responds dev then [Memory.read s.chip.mem s.chip.ptr] else []
  else (Config.freeAnswer s.draws).toList

/-- The pointer after a one-byte read, `(PTR + 1) mod 2^ADDR_BITS` (R70). -/
def State.advancePointer (s : State) : State :=
  { s with chip := { s.chip with ptr := (s.chip.ptr + 1) % 2 ^ s.params.addrBits } }

/-- `BusRequest(dev, 1, true)` (R119), the answer kept as `r` of R152: one bus read phase, after which the bus is free. -/
def busRequest (dev : DevAddr) (s : State) : State :=
  let r := s.requestAnswer dev
  let t := if s.responds dev then s.advancePointer else s
  (State.draw (({ t with answer := r, transport := { t.transport with held := false } } : State).emit
    (.busRequest dev 1 true r))).tick 0

/-- `Drive(L, v)` (R120): `PinMode(L, OUT)` and then `PinSet(L, v)`. -/
def drive (l : Line) (v : Bool) (s : State) : State := pinSet l v (pinMode l .output s)

end Sys2Proof.Machine
end

