-- ==== Sys2Proof/Machine/Flags.lean ====
section
/-! DEFINITION. The two flags (spec/10_state.md R25) and the phases, which are predicates over the state and no state (R36,
R38, R39). The block has no condition codes. -/

namespace Sys2Proof.Machine

/-- `BUSY`: 1 exactly while `SEQ != IDLE` (R25). -/
def State.busy (s : State) : Bool := decide (s.seq ≠ .idle)

/-- `x[STARTED] <- v` (R25). -/
def setStarted (v : Bool) (s : State) : State := { s with started := v }

/-- `Disabled_S` (R38). -/
def State.disabledS (s : State) : Bool :=
  !s.started
    && decide (s.serial.a0.dir = .input) && decide (s.serial.a1.dir = .input) && decide (s.serial.a2.dir = .input)
    && decide (s.serial.pwr = ⟨.input, false⟩) && decide (s.serial.wp = ⟨.input, false⟩)
    && decide (s.serial.bclk.dir = .input) && decide (s.serial.bdat.dir = .input)

/-- `Active_S` (R38). -/
def State.activeS (s : State) : Bool :=
  s.started
    && decide (s.serial.pwr = ⟨.output, true⟩) && decide (s.serial.wp = ⟨.output, true⟩)
    && decide (s.serial.a0 = ⟨.output, false⟩) && decide (s.serial.a1 = ⟨.output, false⟩)
    && decide (s.serial.a2 = ⟨.output, false⟩)

/-- `Disabled_P` (R39). -/
def State.disabledP (s : State) : Bool :=
  decide (s.parallel.pwren = ⟨.output, true⟩) && decide (s.parallel.shen = ⟨.output, false⟩)
    && decide (s.parallel.shclk.dir = .output) && decide (s.parallel.shdat.dir = .output)
    && decide (s.parallel.we.dir = .input) && decide (s.parallel.oe.dir = .input)
    && s.parallel.dataAll .input

/-- The line registers of `Active_P` (R39). -/
def ParallelLines.active (b : ParallelLines) : Bool :=
  decide (b.pwren = ⟨.output, false⟩) && decide (b.we = ⟨.output, true⟩) && decide (b.oe = ⟨.output, true⟩)
    && decide (b.shen = ⟨.output, true⟩) && decide (b.shclk.dir = .output) && decide (b.shdat.dir = .output)
    && b.dataAll .input

/-- `Active_P` (R39): its lines, and `T_PAR_POWER_MS` past since `LAT[PWREN]` last went to 0. -/
def State.activeP (s : State) : Bool :=
  s.parallel.active && decide (s.pwrenLowAt + s.params.constants.tParPowerMs * 1000 ≤ s.now)

/-- Where the results of readByte and writeByte are defined (R38, R39, C7): the variant's Active predicate, and for the serial
variant a transport that is started (R118, R119). -/
def State.resultsDefined (s : State) : Bool :=
  match s.params.variant with
  | .serial => s.activeS && s.transport.on
  | .parallel => s.activeP

end Sys2Proof.Machine
end

