-- ==== Sys2Proof/Machine/Sequencer.lean ====
section
/-! DEFINITION. The sequencer (spec/10_state.md R24) and the acceptance and end of an operation (41_eepromio_contract.md
R137). An operation is the list of the steps of its rule; the sequencer runs them in order, one at a time (R14). -/

namespace Sys2Proof.Machine

/-- Acceptance of an operation (R137): `x[SEQ] <- (op, 1)`. The model notes whether its results are defined (U1). -/
def accept (op : Op) (s : State) : State := { s with seq := .running op 1, inPhase := s.resultsDefined }

/-- `x[ADDR] <- CMD[23:8]`, for READ and WRITE (R137). -/
def setAddr (a : Addr) (s : State) : State := { s with addr := a }

/-- `x[WDATA] <- CMD[7:0]`, for WRITE (R137). -/
def setWdata (x : Byte) (s : State) : State := { s with wdata := x }

/-- `x[RDATA] <- v`, the end of a readByte (R23); a free byte where the result is undefined (U2). -/
def setRdata (v : Byte) (s : State) : State :=
  if s.inPhase then { s with rdata := v } else State.draw { s with rdata := Config.freeByte s.draws }

/-- `x[SEQ] <- q` (R24). -/
def atSeq (q : Seq) (s : State) : State := { s with seq := q }

/-- Run the steps, the first of which is number `k` of the operation `op`: each sets `x[SEQ] <- (op, k+1)` (R24). -/
def runSteps (op : Op) : List (State → State) → Nat → State → State
  | [], _, s => s
  | f :: fs, k, s => runSteps op fs (k + 1) (atSeq (.running op (k + 1)) (f s))

/-- A readByte or writeByte outside the Active phase leaves the EEPROM undefined: "what is undefined is the returned byte and the
effect on the EEPROM" (70_reset_and_hazards.md R232, U1). The array and the pointer become free; that the write cycle, `WBUSY_UNTIL`,
stays as the steps left it, and with it power and readiness, is the model's choice (log entry 10). -/
def loseEeprom (s : State) : State :=
  State.draw { s with chip :=
    { s.chip with mem := Memory.ofCells s.params (Config.freeCells s.draws), ptr := cell s.params (Config.freeAddr s.draws) } }

/-- The end of an operation (R24, R137): `x[SEQ] <- IDLE`. -/
def finish (op : Op) (s : State) : State :=
  match op with
  | .read | .write => if s.inPhase then atSeq .idle s else loseEeprom (atSeq .idle s)
  | .setup | .init | .disable => atSeq .idle s

/-- A whole operation, from acceptance to completion (R137, D30): its steps, all of them, in order. -/
def operate (op : Op) (steps : List (State → State)) (s : State) : State :=
  finish op (runSteps op steps 1 (accept op s))

/-! ## Where an operation is refused -/

/-- `BusEnd` would be issued on a transport that is not started, whose effect is unspecified (R117, U12). -/
def State.unsafeShutdown (s : State) : Bool := s.started && !s.transport.on

/-- `PinSet(OE, 0)` would cause bus contention: the chip is powered, `OE` an output, and some data line an output (R173, R222). -/
def State.readContends (s : State) : Bool :=
  s.params.present && s.parallel.powered && decide (s.parallel.oe.dir = .output) && !s.parallel.dataAll .input

/-- Powering the chip, or `Drive(OE, 1)` with its latch at 0 (R120), would cause bus contention in an init: `PWREN` is an output, so
that the chip is powered from step 1 on, `LAT[OE] = 0`, so that `OE` is low before step 3 or inside it, and some data line is an
output (R172, R222). -/
def State.initContends (s : State) : Bool :=
  s.params.present && decide (s.parallel.pwren.dir = .output) && !s.parallel.oe.lat && !s.parallel.dataAll .input

/-- Making the data lines outputs would cause bus contention: the chip is powered and `OE` is low (R65, R222). -/
def State.writeContends (s : State) : Bool :=
  s.params.present && s.parallel.powered && decide (s.parallel.oe.drive = .low)

/-- Why the operation `op` is refused from its step number `k` on: because a step still to come would issue `BusEnd` on a transport
that is not started (R154 step 1, R150 step 2; U12), or `BusWrite` or `BusRequest` on one (R152 steps 1 and 2, R153 step 3; U2,
R197), or because an init, a readByte or a
writeByte would run under bus contention (R222, R197, U7). No other operation is refused, and on
a block that began with setup none is from the end of an init to the next disable. -/
def State.stopAt (s : State) (op : Op) (k : Nat) : Option Refusal :=
  match s.params.variant, op with
  | .serial, .setup => if decide (k = 2) && s.unsafeShutdown then some .busEndNotStarted else none
  | .serial, .disable => if decide (k ≤ 1) && s.unsafeShutdown then some .busEndNotStarted else none
  | .serial, .read => if decide (k ≤ 2) && !s.transport.on then some .busNotStarted else none
  | .serial, .write => if decide (k ≤ 3) && !s.transport.on then some .busNotStarted else none
  | .parallel, .init =>
    if s.contended || decide (k ≤ 3) && (decide (k ≤ 1) || s.parallel.powered) && s.initContends then some .busContention else none
  | .parallel, .read => if s.contended || decide (k ≤ 2) && s.readContends then some .busContention else none
  | .parallel, .write => if s.contended || decide (k ≤ 2) && s.writeContends then some .busContention else none
  | .serial, .init | .parallel, .setup | .parallel, .disable => none

/-- A whole operation, where it is not refused (R137). -/
def perform (op : Op) (steps : List (State → State)) (s : State) : Host.Outcome State Fault Refusal :=
  match s.stopAt op 1 with
  | some r => .refused r
  | none => .next (operate op steps s)

/-- A block runs the operations of the variant it is strapped as, and no other (R83, R130). -/
def onVariant (v : Variant) (s : State) (o : Host.Outcome State Fault Refusal) : Host.Outcome State Fault Refusal :=
  if s.params.variant = v then o else .refused .otherVariant

end Sys2Proof.Machine
end

