-- ==== Sys2Proof/Machine/Parallel.lean ====
section
/-! DEFINITION. The five operations of the parallel variant (spec/43_parallel_driver.md R170 to R175), each the list of its
rule's numbered steps. None raises an exception (60_exceptions.md R190). -/

namespace Sys2Proof.Machine

/-- One round of `Latch` step 2 (R170): the bit on `SHDAT`, then one pulse of `SHCLK`. -/
def shiftBit (b : Bool) (s : State) : State :=
  pinSet (.par .shclk) false (pinSet (.par .shclk) true (pinSet (.par .shdat) b s))

/-- `Latch(a)` (R170): `SHCLK` low, then the sixteen bits of the shift stream (R89). -/
def latch (a : Addr) (s : State) : State :=
  (shiftStream a).foldl (fun s b => shiftBit b s) (pinSet (.par .shclk) false s)

/-- `Latch(x[ADDR])`, step 1 of readByte and of writeByte (R173, R174). -/
def latchAddr (s : State) : State := latch s.addr s

/-- `for i in 0..7: PinMode(Di, d)` (R174, R175). -/
def dataMode (d : Dir) (s : State) : State :=
  dataLines.foldl (fun s p => pinMode (.par p.1) d s) s

/-- `for i in 0..7: PinSet(Di, x[WDATA][i])` (R174). -/
def dataSet (s : State) : State :=
  dataLines.foldl (fun t p => pinSet (.par p.1) (s.wdata.getLsbD p.2) t) s

/-- `for i in 0..7: g[i] <- PinGet(Di)` (R173). -/
def dataGet (s : State) : State :=
  dataLines.foldl (fun s p => pinGet (.par p.1) s) { s with sampled := [] }

/-- The steps of `P.DISABLE` (R175). -/
def pDisableSteps : List (State → State) :=
  [pinSet (.par .pwren) true, pinSet (.par .shen) false, pinMode (.par .we) .input, pinMode (.par .oe) .input,
    dataMode .input]

/-- `call Disable()` (R14, R179): the steps of R175 in place. -/
def callPDisable (s : State) : State := pDisableSteps.foldl (fun s f => f s) s

/-- The steps of `P.SETUP` (R171). -/
def pSetupSteps : List (State → State) :=
  [pinMode (.par .pwren) .output, pinMode (.par .shen) .output, pinMode (.par .shclk) .output,
    pinMode (.par .shdat) .output, callPDisable]

/-- The steps of `P.INIT` (R172). -/
def pInitSteps : List (State → State) :=
  [pinSet (.par .pwren) false, drive (.par .we) true, drive (.par .oe) true, pinSet (.par .shen) true,
    waitMs Constants.tParPowerMs]

/-- `P.READ` step 7 (R173): the sampled levels as a byte (R91). -/
def takeSample (s : State) : State := setRdata (assembleByte s.sampled) s

/-- The steps of `P.READ` (R173). -/
def pReadSteps : List (State → State) :=
  [latchAddr, pinSet (.par .oe) false, waitUs Constants.tParOeUs, dataGet, pinSet (.par .oe) true,
    waitUs Constants.tParOeOffUs, takeSample]

/-- The steps of `P.WRITE` (R174). -/
def pWriteSteps : List (State → State) :=
  [latchAddr, dataMode .output, dataSet, waitUs Constants.tParSetupUs, pinSet (.par .we) false, waitUs Constants.tParWeUs,
    pinSet (.par .we) true, waitMs Constants.tParWriteMs, dataMode .input]

/-- `P.SETUP` (R171). -/
def execPSetup (s : State) : Host.Outcome State Fault Refusal :=
  onVariant .parallel s (perform .setup pSetupSteps s)

/-- `P.INIT` (R172); refused where its steps would cause bus contention (R222: `State.stopAt`), which a block on which setup has run
never meets. -/
def execPInit (s : State) : Host.Outcome State Fault Refusal :=
  onVariant .parallel s (perform .init pInitSteps s)

/-- `P.READ` (R173): runs its steps whatever the phase (R36, R232); refused where its step 2 would cause bus contention (R222:
`State.stopAt`). -/
def execPRead (a : Addr) (s : State) : Host.Outcome State Fault Refusal :=
  onVariant .parallel s (perform .read pReadSteps (setAddr a s))

/-- `P.WRITE` (R174): runs its steps whatever the phase (R36, R232); refused where its step 2 would cause bus contention (R222:
`State.stopAt`). -/
def execPWrite (a : Addr) (x : Byte) (s : State) : Host.Outcome State Fault Refusal :=
  onVariant .parallel s (perform .write pWriteSteps (setWdata x (setAddr a s)))

/-- `P.DISABLE` (R175). -/
def execPDisable (s : State) : Host.Outcome State Fault Refusal :=
  onVariant .parallel s (perform .disable pDisableSteps s)

end Sys2Proof.Machine
end

