-- ==== Sys2Proof/Machine/Serial.lean ====
section
/-! DEFINITION. The five operations of the serial variant (spec/42_serial_driver.md R150 to R154), each the list of its rule's
numbered steps. None raises an exception (60_exceptions.md R190). -/

namespace Sys2Proof.Machine

/-- `S.DISABLE` step 1 (R154): `if x[STARTED] = 1 then { BusEnd(); x[STARTED] <- 0 }`. -/
def stopTransport (s : State) : State := if s.started then setStarted false (busEnd s) else s

/-- `S.DISABLE` step 4 (R154): the seven lines to `IN`, in the order of EP's list (D5). -/
def floatSerial (s : State) : State :=
  [SLine.a0, .a1, .a2, .pwr, .wp, .bclk, .bdat].foldl (fun s l => pinMode (.ser l) .input s) s

/-- The steps of `S.DISABLE` (R154). -/
def sDisableSteps : List (State → State) :=
  [stopTransport, pinSet (.ser .wp) false, pinSet (.ser .pwr) false, floatSerial]

/-- `call Disable()` (R14, R155): the steps of R154 in place. -/
def callSDisable (s : State) : State := sDisableSteps.foldl (fun s f => f s) s

/-- The steps of `S.SETUP` (R150). -/
def sSetupSteps : List (State → State) := [setStarted false, callSDisable]

/-- `S.INIT` step 6 (R151). -/
def startBus (s : State) : State := busBegin s.params.constants.busRateHz s

/-- The steps of `S.INIT` (R151). -/
def sInitSteps : List (State → State) :=
  [drive (.ser .pwr) true, drive (.ser .wp) true, drive (.ser .a0) false, drive (.ser .a1) false, drive (.ser .a2) false,
    startBus, setStarted true]

/-- `S.READ` step 1 (R152): the address frame, with no stop-equivalent (R92). -/
def sendAddress (s : State) : State := busWrite (devAddr s.params) (addressFrame s.addr) false s

/-- `S.READ` step 2 (R152): the one-byte read request (R93). -/
def requestByte (s : State) : State := busRequest (devAddr s.params) s

/-- `S.READ` step 3 (R152): `RDATA` is the byte the bus yielded, the sentinel if it yielded none. -/
def takeAnswer (s : State) : State := setRdata (answerByte s.params s.answer) s

/-- The steps of `S.READ` (R152). -/
def sReadSteps : List (State → State) := [sendAddress, requestByte, takeAnswer]

/-- `S.WRITE` step 3 (R153): the write frame (R94). -/
def sendWrite (s : State) : State := busWrite (devAddr s.params) (writeFrame s.addr s.wdata) true s

/-- The steps of `S.WRITE` (R153). -/
def sWriteSteps : List (State → State) :=
  [pinSet (.ser .wp) false, waitUs Constants.tSerWpUs, sendWrite, waitMs Constants.tSerWriteMs, pinSet (.ser .wp) true,
    waitMs Constants.tSerProtectMs]

/-- `S.SETUP` (R150). -/
def execSSetup (s : State) : Host.Outcome State Fault Refusal :=
  onVariant .serial s (perform .setup sSetupSteps s)

/-- `S.INIT` (R151). -/
def execSInit (s : State) : Host.Outcome State Fault Refusal :=
  onVariant .serial s (perform .init sInitSteps s)

/-- `S.READ` (R152): checks no phase (R36, R232), and is refused only where its transactions would go to a transport that is not
started (U2, vector T34: `State.stopAt`), which no sequence that begins with setup and init and has no disable since meets. -/
def execSRead (a : Addr) (s : State) : Host.Outcome State Fault Refusal :=
  onVariant .serial s (perform .read sReadSteps (setAddr a s))

/-- `S.WRITE` (R153): checks no phase (R36, R232), and is refused only where its transaction would go to a transport that is not
started (U2, vector T34: `State.stopAt`). -/
def execSWrite (a : Addr) (x : Byte) (s : State) : Host.Outcome State Fault Refusal :=
  onVariant .serial s (perform .write sWriteSteps (setWdata x (setAddr a s)))

/-- `S.DISABLE` (R154); refused where step 1 would stop a transport that is not started (U12, vector T26: `State.stopAt`), which
no sequence that begins with setup meets (R157 (c)). -/
def execSDisable (s : State) : Host.Outcome State Fault Refusal :=
  onVariant .serial s (perform .disable sDisableSteps s)

end Sys2Proof.Machine
end

