-- ==== Sys2Proof/Machine/Dispatch.lean ====
section
/-! DEFINITION. One arm for every instruction of spec/opcode_table.json. -/

namespace Sys2Proof.Machine

def exec (i : Instr) (s : State) : Host.Outcome State Fault Refusal :=
  match i with
  -- 42_serial_driver.md
  | .sSetup => Sys2Proof.Machine.execSSetup s
  | .sInit => Sys2Proof.Machine.execSInit s
  | .sRead address => Sys2Proof.Machine.execSRead address s
  | .sWrite address value => Sys2Proof.Machine.execSWrite address value s
  | .sDisable => Sys2Proof.Machine.execSDisable s
  -- 43_parallel_driver.md
  | .pSetup => Sys2Proof.Machine.execPSetup s
  | .pInit => Sys2Proof.Machine.execPInit s
  | .pRead address => Sys2Proof.Machine.execPRead address s
  | .pWrite address value => Sys2Proof.Machine.execPWrite address value s
  | .pDisable => Sys2Proof.Machine.execPDisable s

end Sys2Proof.Machine
end

