-- ==== Sys2Proof/Machine/Port.lean ====
section
/-! DEFINITION. The command port (spec/41_eepromio_contract.md R137, R138): what the host presents, and the operation in
progress. -/

namespace Sys2Proof.Machine

/-- The step list of an operation of a variant (R100): the "program text" of the sequencer (R35). -/
def stepsOf : Variant → Op → List (State → State)
  | .serial, .setup => sSetupSteps
  | .serial, .init => sInitSteps
  | .serial, .read => sReadSteps
  | .serial, .write => sWriteSteps
  | .serial, .disable => sDisableSteps
  | .parallel, .setup => pSetupSteps
  | .parallel, .init => pInitSteps
  | .parallel, .read => pReadSteps
  | .parallel, .write => pWriteSteps
  | .parallel, .disable => pDisableSteps

/-- Complete the operation in progress from its step number `k` on: "there is no cancellation, timeout, or partial-result path"
(R24), and the port accepts nothing meanwhile (R138). -/
def resume (op : Op) (k : Nat) (s : State) : Host.Outcome State Fault Refusal :=
  match s.stopAt op k with
  | some r => .refused r
  | none => .next (finish op (runSteps op ((stepsOf s.params.variant op).drop (k - 1)) k s))

/-- The host's word, accepted (R137): it leaves the port and its operation runs. A reserved word is refused (R85). -/
def present (w : CmdWord) (rest : List CmdWord) (s : State) : Host.Outcome State Fault Refusal :=
  match decode s.params.variant w with
  | .ok i => exec i { s with host := rest }
  | .error e => .refused (.reservedWord e w)

/-- The port of an idle block: with `CMD_VALID = 0` nothing is accepted and nothing changes (R137, R210). -/
def awaitCommand (s : State) : Host.Outcome State Fault Refusal :=
  match s.host with
  | [] => .next s
  | w :: rest => present w rest s

/-- Put a word on the port of a block that is idle, in place of the one that was there (for `State.withFetchWord`). -/
def placeCmd (w : CmdWord) (s : State) : State := { s with seq := .idle, host := w :: s.host.tail }

end Sys2Proof.Machine
end

