-- ==== Sys2Proof/Machine/Step.lean ====
section
/-! DEFINITION. One step of the machine: a whole operation (spec/92_eei_decisions.md D30; 41_eepromio_contract.md R137: "A model
may therefore treat a whole operation as one host-level transition"). -/

namespace Sys2Proof.Machine

/-- One step: an idle block takes the host's next command and runs it to completion; a block with an operation in progress
completes it, accepting nothing (R138). -/
def step (s : State) : Host.Outcome State Fault Refusal :=
  match s.seq with
  | .idle => awaitCommand s
  | .running op k => resume op k s

/-- `s` with the instruction of an opcode-table word on the command port of the idle block (log entry 6). -/
def State.withFetchWord (s : State) (nbits w : Nat) : State := placeCmd (tableWord nbits w) s

end Sys2Proof.Machine
end

