-- ==== Sys2Proof/Safety.lean ====
section
/-! DEFINITION. The terms in which claims speak: what an operation keeps, the traces of the rules, the line registers as the
trace determines them, and the invariants of the two variants (spec/42_serial_driver.md R157, 43_parallel_driver.md R181). -/

namespace Sys2Proof.Machine

/-! ## What an operation keeps -/

/-- Every byte of the EEPROM reads as before. -/
def SameMem (s t : State) : Prop := ∀ a : Addr, t.memRead a = s.memRead a

/-- Every byte of the EEPROM reads as before, but for the cell that the address `a` names. -/
def SameMemExcept (a : Addr) (s t : State) : Prop :=
  ∀ b : Addr, cell s.params b ≠ cell s.params a → t.memRead b = s.memRead b

/-- The operand and result registers are as before (R21 to R23). -/
def SameRegs (s t : State) : Prop := t.addr = s.addr ∧ t.wdata = s.wdata ∧ t.rdata = s.rdata

/-- Everything that belongs to the serial variant is as before (R25, R26, R32). -/
def SameSerialSide (s t : State) : Prop :=
  t.started = s.started ∧ t.serial = s.serial ∧ t.transport = s.transport ∧ t.answer = s.answer

/-- Everything that belongs to the parallel variant is as before (R27, R31). -/
def SameParallelSide (s t : State) : Prop :=
  t.parallel = s.parallel ∧ t.sr = s.sr ∧ t.pwrenLowAt = s.pwrenLowAt ∧ t.sampled = s.sampled

/-- The operation is over (`SEQ = IDLE`, `BUSY = 0`), and the parameters and the host's coming words are as before. -/
def Completed (s t : State) : Prop := t.seq = .idle ∧ t.busy = false ∧ t.params = s.params ∧ t.host = s.host

/-- What acceptance copies from the command word (R137): the operands the operation has. -/
def loadOperands : Instr → State → State
  | .sRead a, s | .pRead a, s => setAddr a s
  | .sWrite a x, s | .pWrite a x, s => setWdata x (setAddr a s)
  | .sSetup, s | .sInit, s | .sDisable, s | .pSetup, s | .pInit, s | .pDisable, s => s

/-! ## The traces of the rules (R15) -/

/-- The trace of serial disable after its step 1 (R154). -/
def sDisableEvents : List Event :=
  [.set (.ser .wp) false, .set (.ser .pwr) false, .mode (.ser .a0) .input, .mode (.ser .a1) .input, .mode (.ser .a2) .input,
    .mode (.ser .pwr) .input, .mode (.ser .wp) .input, .mode (.ser .bclk) .input, .mode (.ser .bdat) .input]

/-- The trace of serial init (R151). -/
def sInitEvents (p : Params) : List Event :=
  [.mode (.ser .pwr) .output, .set (.ser .pwr) true, .mode (.ser .wp) .output, .set (.ser .wp) true,
    .mode (.ser .a0) .output, .set (.ser .a0) false, .mode (.ser .a1) .output, .set (.ser .a1) false,
    .mode (.ser .a2) .output, .set (.ser .a2) false, .busBegin p.constants.busRateHz]

/-- The trace of serial readByte with the answer `r` (R152). -/
def sReadEvents (p : Params) (a : Addr) (r : List Byte) : List Event :=
  [.busWrite (devAddr p) [hiByte a, loByte a] false, .busRequest (devAddr p) 1 true r]

/-- The trace of serial writeByte (R153). -/
def sWriteEvents (p : Params) (a : Addr) (x : Byte) : List Event :=
  [.set (.ser .wp) false, .delayUs p.constants.tSerWpUs, .busWrite (devAddr p) [hiByte a, loByte a, x] true,
    .delayMs p.constants.tSerWriteMs, .set (.ser .wp) true, .delayMs p.constants.tSerProtectMs]

/-- The trace of `Latch` (R170). -/
def latchEvents (a : Addr) : List Event :=
  .set (.par .shclk) false
    :: (shiftStream a).flatMap fun b => [.set (.par .shdat) b, .set (.par .shclk) true, .set (.par .shclk) false]

/-- The trace of `for i in 0..7: PinMode(Di, d)`. -/
def dataModeEvents (d : Dir) : List Event := dataLines.map fun p => .mode (.par p.1) d

/-- The trace of parallel disable (R175). -/
def pDisableEvents : List Event :=
  [.set (.par .pwren) true, .set (.par .shen) false, .mode (.par .we) .input, .mode (.par .oe) .input]
    ++ dataModeEvents .input

/-- The trace of parallel setup (R171). -/
def pSetupEvents : List Event :=
  [.mode (.par .pwren) .output, .mode (.par .shen) .output, .mode (.par .shclk) .output, .mode (.par .shdat) .output]
    ++ pDisableEvents

/-- The trace of parallel init (R172). -/
def pInitEvents (p : Params) : List Event :=
  [.set (.par .pwren) false, .mode (.par .we) .output, .set (.par .we) true, .mode (.par .oe) .output, .set (.par .oe) true,
    .set (.par .shen) true, .delayMs p.constants.tParPowerMs]

/-- The trace of parallel readByte with the sampled levels `g` (R173). -/
def pReadEvents (p : Params) (a : Addr) (g : List Bool) : List Event :=
  latchEvents a ++ [.set (.par .oe) false, .delayUs p.constants.tParOeUs]
    ++ (List.zipWith (fun q v => Event.get (.par q.1) v) dataLines g)
    ++ [.set (.par .oe) true, .delayUs p.constants.tParOeOffUs]

/-- The trace of parallel writeByte (R174). -/
def pWriteEvents (p : Params) (a : Addr) (x : Byte) : List Event :=
  latchEvents a ++ dataModeEvents .output ++ (dataLines.map fun q => .set (.par q.1) (x.getLsbD q.2))
    ++ [.delayUs p.constants.tParSetupUs, .set (.par .we) false, .delayUs p.constants.tParWeUs, .set (.par .we) true,
      .delayMs p.constants.tParWriteMs] ++ dataModeEvents .input

/-! ## The line registers as the trace determines them (R30, R110, R111) -/

/-- What an event does to the serial line registers. -/
def serialEvent (b : SerialLines) : Event → SerialLines
  | .mode (.ser l) d => b.set l { b.get l with dir := d }
  | .set (.ser l) v => b.set l { b.get l with lat := v }
  | _ => b

/-- What an event does to the parallel line registers. -/
def parallelEvent (b : ParallelLines) : Event → ParallelLines
  | .mode (.par l) d => b.set l { b.get l with dir := d }
  | .set (.par l) v => b.set l { b.get l with lat := v }
  | _ => b

/-- The serial line registers after a list of events. -/
def serialAfter (b : SerialLines) (evs : List Event) : SerialLines := evs.foldl serialEvent b

/-- The parallel line registers after a list of events. -/
def parallelAfter (b : ParallelLines) (evs : List Event) : ParallelLines := evs.foldl parallelEvent b

/-! ## Hazards (70_reset_and_hazards.md R222, R225) -/

/-- No contention on the data bus (R181 (a)): `OE` is not driven low while a data line is an output. -/
def ParallelLines.busSafe (b : ParallelLines) : Bool := decide (b.oe.drive ≠ .low) || b.dataAll .input

/-- No unsafe control combination (R181 (d), R141 P4): `WE` and `OE` are not both driven low, and `WE` is not driven low while
power is off. -/
def ParallelLines.controlSafe (b : ParallelLines) : Bool :=
  !(decide (b.we.drive = .low) && (decide (b.oe.drive = .low) || !b.powered))

/-! ## Invariants between operations -/

/-- The EEPROM array is in canonical form over the cells the chip has, the serial pointer names one of them, and the time
`LAT[PWREN]` last went to 0 is past. -/
def State.sound (s : State) : Bool :=
  Memory.wf s.chip.mem && Memory.within (2 ^ s.params.addrBits) s.chip.mem && decide (s.chip.ptr < 2 ^ s.params.addrBits)
    && decide (s.pwrenLowAt ≤ s.now)

/-- A line that is driven is driven to `v`. -/
def LineReg.onlyDriven (r : LineReg) (v : Bool) : Bool := decide (r.dir = .input) || decide (r.lat = v)

/-- The serial variant between operations (R157 (a), (c), (d), (e)). -/
def State.serialOk (s : State) : Bool :=
  (!s.started || s.transport.on) && !s.transport.held && s.serial.wp.onlyDriven true
    && s.serial.a0.onlyDriven false && s.serial.a1.onlyDriven false && s.serial.a2.onlyDriven false

/-- The parallel variant between operations, once setup has run (R181 (a), (b), (f), R171, R225). -/
def ParallelLines.ok (b : ParallelLines) : Bool :=
  decide (b.pwren.dir = .output) && decide (b.shen.dir = .output) && decide (b.shclk.dir = .output)
    && decide (b.shdat.dir = .output) && b.dataAll .input
    && (decide (b.we.dir = .input) || (b.we.lat && !b.pwren.lat)) && b.oe.onlyDriven true

end Sys2Proof.Machine
end

