-- ==== Sys2Proof/Certificates/Slice0/Obligations.lean ====
section
/-! DEFINITION. The statements for the provers, from the numbered rules of spec/. Each holds for every choice of the
parameters (00_scope.md R10), which a state carries, and for every free value. -/

open Sys2Proof Sys2Proof.Machine

/-! ## The command word (30_encoding.md) -/

/-- R80 to R82: the decoder of a block gives every instruction of that block back from its canonical word, whatever the
operands. -/
def Obligations.DecodeOfEncodeIsTheInstruction : Prop :=
  ∀ (v : Variant) (i : Instr), i.wellFormed v = true → decode v (encode i) = .ok i

/-- R81, R82, R100: a word that matches a row of the opcode table under its mask is that row's instruction on a block of the
row's variant, with `address` from bits 23..8 and `value` from bits 7..0 where the operation has them, whatever its ignored
fields hold. -/
def Obligations.MaskedWordDecodesToItsRow : Prop :=
  ∀ (v : Variant) (w : CmdWord),
    (w &&& 0xFF000000#32 = 0x01000000#32 → decode v w = .ok (if v = .serial then .sSetup else .pSetup))
    ∧ (w &&& 0xFF000000#32 = 0x02000000#32 → decode v w = .ok (if v = .serial then .sInit else .pInit))
    ∧ (w &&& 0xFF000000#32 = 0x03000000#32 → decode v w =
        .ok (if v = .serial then .sRead (w.extractLsb' 8 16) else .pRead (w.extractLsb' 8 16)))
    ∧ (w &&& 0xFF000000#32 = 0x04000000#32 → decode v w =
        .ok (if v = .serial then .sWrite (w.extractLsb' 8 16) (w.extractLsb' 0 8)
          else .pWrite (w.extractLsb' 8 16) (w.extractLsb' 0 8)))
    ∧ (w &&& 0xFF000000#32 = 0x05000000#32 → decode v w = .ok (if v = .serial then .sDisable else .pDisable))

/-- R85: an idle block whose host presents a reserved word, `op` in {0, 6, 7} or `CMD[31:27]` not zero, is given no step. -/
def Obligations.ReservedWordIsRefused : Prop :=
  ∀ (s : State) (w : CmdWord) (rest : List CmdWord), s.seq = .idle → s.host = w :: rest →
    w.extractLsb' 27 5 ≠ 0#5 ∨ w.extractLsb' 24 3 = 0#3 ∨ w.extractLsb' 24 3 = 6#3 ∨ w.extractLsb' 24 3 = 7#3 →
    ∃ e, step s = .refused (.reservedWord e w)

/-- R100's worked encodings, read by both variants. -/
def Obligations.WorkedEncodingsDecode : Prop :=
  decode .serial 0x041234AB#32 = .ok (.sWrite 0x1234#16 0xAB#8)
  ∧ decode .parallel 0x041234AB#32 = .ok (.pWrite 0x1234#16 0xAB#8)
  ∧ decode .serial 0x03123400#32 = .ok (.sRead 0x1234#16)
  ∧ decode .parallel 0x03123400#32 = .ok (.pRead 0x1234#16)
  ∧ decode .serial 0x01000000#32 = .ok .sSetup
  ∧ decode .parallel 0x01000000#32 = .ok .pSetup
  ∧ decode .serial 0x02000000#32 = .ok .sInit
  ∧ decode .parallel 0x02000000#32 = .ok .pInit
  ∧ decode .serial 0x05000000#32 = .ok .sDisable
  ∧ decode .parallel 0x05000000#32 = .ok .pDisable

/-- R98: a host call assembles exactly when its numerals are in range, and then to a word that decodes to that call. -/
def Obligations.AssembledCallDecodesToTheCall : Prop :=
  ∀ v : Variant,
    (∃ w, assemble .setup = some w ∧ decode v w = .ok (if v = .serial then .sSetup else .pSetup))
    ∧ (∃ w, assemble .init = some w ∧ decode v w = .ok (if v = .serial then .sInit else .pInit))
    ∧ (∃ w, assemble .disable = some w ∧ decode v w = .ok (if v = .serial then .sDisable else .pDisable))
    ∧ (∀ a : Nat, a ≤ 65535 → ∃ w, assemble (.readByte a) = some w ∧ decode v w =
        .ok (if v = .serial then .sRead (BitVec.ofNat 16 a) else .pRead (BitVec.ofNat 16 a)))
    ∧ (∀ a x : Nat, a ≤ 65535 → x ≤ 255 → ∃ w, assemble (.writeByte a x) = some w ∧ decode v w =
        .ok (if v = .serial then .sWrite (BitVec.ofNat 16 a) (BitVec.ofNat 8 x)
          else .pWrite (BitVec.ofNat 16 a) (BitVec.ofNat 8 x)))
    ∧ (∀ a : Nat, 65535 < a → assemble (.readByte a) = none)
    ∧ (∀ a x : Nat, 65535 < a ∨ 255 < x → assemble (.writeByte a x) = none)

/-! ## The port, the sequencer, completion (10_state.md R24, 41_eepromio_contract.md R137, R138) -/

/-- R137: an idle block whose host presents a word that decodes runs the decoded instruction, and the word leaves the port. -/
def Obligations.StepRunsTheDecodedInstruction : Prop :=
  ∀ (s : State) (w : CmdWord) (rest : List CmdWord) (i : Instr), s.seq = .idle → s.host = w :: rest →
    decode s.params.variant w = .ok i → step s = exec i { s with host := rest }

/-- R137, R210: an idle block with `CMD_VALID = 0` stays as it is. -/
def Obligations.IdleBlockWithoutCommandStays : Prop :=
  ∀ s : State, s.seq = .idle → s.host = [] → step s = .next s

/-- R138: while `BUSY = 1` nothing is accepted and nothing queued: where the operation in progress is not refused from its step `k`
on, the step completes it and the host's words are as they were; where it is (log entries 8, 9 and 12), the step is
refused. That one step completes it, from any `k` and past the end of the list too, is the model's choice (log entry 17; R137 and
D30 allow it). -/
def Obligations.BusyBlockCompletesAndAcceptsNothing : Prop :=
  ∀ (s : State) (op : Op) (k : Nat), s.seq = .running op k →
    (s.stopAt op k = none → ∃ t, step s = .next t ∧ Completed s t)
    ∧ (∀ r, s.stopAt op k = some r → step s = .refused r)

/-- R190, R137: each of the ten instructions on a block of its variant completes, with `SEQ = IDLE`, `BUSY = 0`, and the parameters and
the host's coming words as before, but for these refusals: `S.DISABLE` where it would stop a transport that is not started (U12,
log entry 8), `S.READ` and `S.WRITE` on a transport that is not started (U2, log entry 9), `P.INIT`, `P.READ` and `P.WRITE`
under bus contention (R222, log entry 12). That a readByte or writeByte completes outside the Active phase is the model's choice of the two that U1
leaves it (log entry 10). -/
def Obligations.EveryAcceptedOperationCompletes : Prop :=
  ∀ (i : Instr) (s : State), i.variant = s.params.variant → (i = .sDisable → s.unsafeShutdown = false) →
    (i.op = .read ∨ i.op = .write → i.variant = .serial → s.transport.on = true) →
    (i = .pInit → s.initContends = false) →
    (i.op = .read → i.variant = .parallel → s.readContends = false) →
    (i.op = .write → i.variant = .parallel → s.writeContends = false) →
    ∃ t, exec i s = .next t ∧ Completed s t

/-- R83, R130: a block has no instruction of the other variant. That `exec`, given one all the same, refuses it is the model's
deduction (log entry 18). -/
def Obligations.OtherVariantHasNoInstruction : Prop :=
  ∀ (i : Instr) (s : State), i.variant ≠ s.params.variant → exec i s = .refused .otherVariant

/-- R24, R138: an operation taken to any of its steps and then left to the sequencer ends in the state that the whole operation
ends in, for each of the ten instructions. -/
def Obligations.SequencerResumesAtAnyStep : Prop :=
  ∀ (i : Instr) (s t : State) (k : Nat), i.variant = s.params.variant → k ≤ (stepsOf i.variant i.op).length →
    exec i s = .next t →
    step (runSteps i.op ((stepsOf i.variant i.op).take k) 1 (accept i.op (loadOperands i s))) = .next t

/-! ## Lines, time, the shift register (40_line_primitives.md, 43_parallel_driver.md) -/

/-- R110: `PinMode` writes `DIR[L]` only, and is recorded whether or not it changes anything; an output drives its latch, an input
nothing. Where the line has that direction already, it changes nothing. (That what is wired to the line may react, as `SR` does to `SHCLK`, is R176.) -/
def Obligations.PinModeWritesDirectionOnly : Prop :=
  ∀ (l : Line) (d : Dir) (s : State),
    ((pinMode l d s).line l).dir = d ∧ ((pinMode l d s).line l).lat = (s.line l).lat
    ∧ ((pinMode l d s).line l).drive = (if d = .output then Level.ofBool (s.line l).lat else .undriven)
    ∧ (∀ m, m ≠ l → (pinMode l d s).line m = s.line m)
    ∧ (pinMode l d s).trace = s.trace ++ [.mode l d]
    ∧ (l ≠ .par .shclk → (pinMode l d s).sr = s.sr)
    ∧ SameRegs s (pinMode l d s) ∧ (pinMode l d s).seq = s.seq ∧ (pinMode l d s).started = s.started
    ∧ (pinMode l d s).transport = s.transport
    ∧ ((s.line l).dir = d → pinMode l d s = (s.emit (.mode l d)).tick 0)

/-- R111: `PinSet` writes `LAT[L]` only, whatever `DIR[L]` is, and is recorded whether or not it changes anything; on an input the
level is stored and not driven. Where the latch holds that level already, it changes nothing. (That what is wired to the line may react, as `SR` does to `SHCLK`, is R176.) -/
def Obligations.PinSetWritesLatchOnly : Prop :=
  ∀ (l : Line) (v : Bool) (s : State),
    ((pinSet l v s).line l).lat = v ∧ ((pinSet l v s).line l).dir = (s.line l).dir
    ∧ ((pinSet l v s).line l).drive = (if (s.line l).dir = .output then Level.ofBool v else .undriven)
    ∧ (∀ m, m ≠ l → (pinSet l v s).line m = s.line m)
    ∧ (pinSet l v s).trace = s.trace ++ [.set l v]
    ∧ (l ≠ .par .shclk → (pinSet l v s).sr = s.sr)
    ∧ SameRegs s (pinSet l v s) ∧ (pinSet l v s).seq = s.seq ∧ (pinSet l v s).started = s.started
    ∧ (pinSet l v s).transport = s.transport
    ∧ ((s.line l).lat = v → pinSet l v s = (s.emit (.set l v)).tick 0)

/-- R112: `PinGet` on an output line returns its latch (a bus line that the transport owns aside: R29), and writes no register of
the block. -/
def Obligations.PinGetOfOutputIsItsLatch : Prop :=
  ∀ (l : Line) (s : State), (s.line l).dir = .output →
    (s.transport.on = true → l ≠ .ser .bclk ∧ l ≠ .ser .bdat) →
    pinLevel l s = (s.line l).lat
    ∧ (pinGet l s).trace = s.trace ++ [.get l (s.line l).lat]
    ∧ (∀ m, (pinGet l s).line m = s.line m)
    ∧ SameRegs s (pinGet l s) ∧ (pinGet l s).sr = s.sr ∧ (pinGet l s).seq = s.seq ∧ (pinGet l s).started = s.started
    ∧ (pinGet l s).chip = s.chip

/-- R113, R115: a delay lasts at least its argument, and writes `NOW` and the trace only. -/
def Obligations.DelaysAreLowerBounds : Prop :=
  ∀ (n : Nat) (s : State),
    s.now + n ≤ (delayUs n s).now
    ∧ delayUs n s = { s with now := (delayUs n s).now, slack := s.slack.tail, log := .delayUs n :: s.log }
    ∧ s.now + n * 1000 ≤ (delayMs n s).now
    ∧ delayMs n s = { s with now := (delayMs n s).now, slack := s.slack.tail, log := .delayMs n :: s.log }

/-- R90, R91: data line `Di` carries bit `i`. Writing: each data line's latch takes its bit of `WDATA`, so that the eight hold that
byte, and an output drives it. Reading: the levels that `PinGet` returned, line `Di` the `i`-th, are the bits of the byte that `RDATA` takes (where the
phase makes the result defined). And assembling the bits of a byte gives the byte back. -/
def Obligations.DataBusCarriesBitAtItsIndex : Prop :=
  (∀ s : State, (dataSet s).parallel.dataByte = s.wdata
    ∧ ∀ p ∈ dataLines, ((dataSet s).parallel.get p.1).lat = s.wdata.getLsbD p.2
      ∧ ((s.parallel.get p.1).dir = .output →
          ((dataSet s).parallel.get p.1).drive = Level.ofBool (s.wdata.getLsbD p.2)))
  ∧ (∀ s : State, ∃ g : List Bool, g.length = 8
    ∧ (dataGet s).trace = s.trace ++ List.zipWith (fun p v => Event.get (.par p.1) v) dataLines g
    ∧ (s.inPhase = true → ∀ p ∈ dataLines, (takeSample (dataGet s)).rdata.getLsbD p.2 = g.getD p.2 false))
  ∧ (∀ x : Byte, assembleByte (dataBits x) = x)
  ∧ ∀ (g : List Bool), g.length = 8 → ∀ i, i < 8 → (assembleByte g).getLsbD i = g.getD i false

/-- R176: when a driven `SHCLK` rises every bit of `SR` moves one place toward bit 15 and `eff(SHDAT)` enters at bit 0 (the latch of
`SHDAT` where that line is an output); a fall of a driven `SHCLK`, a rewrite of its level, and any write of another line do not change
`SR`. Making `SHCLK` an output does not either, from whatever it was (R171). Where `SHCLK` floats R178 leaves its edges to draws: that
letting it float from high keeps `SR` is the model's choice (log entry 11); of letting it float from low, and of changing its latch
while it floats, nothing is said here, and the model makes `SR` free there. That the active edge is the rising one is the spec's
supplement from general knowledge (R176, D9, G3). -/
def Obligations.ShiftRegisterMovesOnRisingEdgeOnly : Prop :=
  (∀ s : State, s.parallel.shclk.dir = .output →
    (s.parallel.shclk.lat = false → ∀ i, i < 16 →
      (pinSet (.par .shclk) true s).sr.getLsbD i = if i = 0 then s.observe (.par .shdat) else s.sr.getLsbD (i - 1))
    ∧ (s.parallel.shdat.dir = .output → s.observe (.par .shdat) = s.parallel.shdat.lat)
    ∧ (pinSet (.par .shclk) false s).sr = s.sr
    ∧ (s.parallel.shclk.lat = true → (pinSet (.par .shclk) true s).sr = s.sr ∧ (pinMode (.par .shclk) .input s).sr = s.sr))
  ∧ ∀ s : State, (pinMode (.par .shclk) .output s).sr = s.sr
    ∧ ∀ l v d, l ≠ .par .shclk → (pinSet l v s).sr = s.sr ∧ (pinMode l d s).sr = s.sr

/-- R178: `Latch(a)` from output lines ends with `SR = a` whatever it held; its step 1 changes no bit of `SR`, and after iteration `k`
of its step 2 `SR[k:0] = a[15:15-k]`. -/
def Obligations.LatchShiftsTheAddressIn : Prop :=
  ∀ (a : Addr) (s : State), s.parallel.shclk.dir = .output → s.parallel.shdat.dir = .output →
    (pinSet (.par .shclk) false s).sr = s.sr
    ∧ (∀ k, k < 16 → ∀ j, j ≤ k →
        (((shiftStream a).take (k + 1)).foldl (fun s b => shiftBit b s) (pinSet (.par .shclk) false s)).sr.getLsbD j
          = a.getLsbD (15 - k + j))
    ∧ (latch a s).sr = a

/-- R170: `Latch(a)` from any lines issues its 49 events and leaves `LAT[SHCLK] = 0` and `LAT[SHDAT] = a[0]`. Every other line
register, the operand and result registers, `SEQ`, `STARTED`, the transport, the chip and the parameters are as they were, and time
does not run back; what becomes of `SR` is R178. -/
def Obligations.LatchIssuesItsEvents : Prop :=
  ∀ (a : Addr) (s : State),
    (latch a s).trace = s.trace ++ latchEvents a ∧ (latchEvents a).length = 49
    ∧ (latch a s).parallel = { s.parallel with
        shclk := ⟨s.parallel.shclk.dir, false⟩, shdat := ⟨s.parallel.shdat.dir, a.getLsbD 0⟩ }
    ∧ (latch a s).chip = s.chip ∧ SameRegs s (latch a s) ∧ SameSerialSide s (latch a s)
    ∧ (latch a s).seq = s.seq ∧ (latch a s).sampled = s.sampled ∧ (latch a s).pwrenLowAt = s.pwrenLowAt
    ∧ (latch a s).inPhase = s.inPhase ∧ (latch a s).params = s.params ∧ (latch a s).host = s.host
    ∧ s.now ≤ (latch a s).now

/-! ## The reference chip (20_memory.md) -/

/-- R68, R69: a responding serial chip takes the address of a write frame whatever write-protect is, stores the data byte when
write-protect is driven low, and discards it when it is driven high. That the write cycle is counted from the end of the
transaction is the model's choice (log entry 14). -/
def Obligations.WriteProtectGuardsDataNotAddress : Prop :=
  ∀ (s : State) (a : Addr) (x : Byte), s.responds (devAddr s.params) = true → s.sound = true →
    s.serial.wp.dir = .output →
    let t := busWrite (devAddr s.params) (writeFrame a x) true s
    t.chip.ptr = cell s.params a
    ∧ (s.serial.wp.lat = true → SameMem s t)
    ∧ (s.serial.wp.lat = false → t.memRead a = x ∧ SameMemExcept a s t
        ∧ t.chip.wbusyUntil = t.now + s.params.tWcSer)

/-- R64, R67, R203, as log entry 16 reads them: the power of either chip. Cutting it, by the level or by letting the line float, loses its readiness, any write
cycle and any write pulse in progress, and keeps the array; applying it, by the level or by making the line an output, makes the
chip ready from `NOW` plus its power-up time on, and keeps the array. That making a floating power line an output counts as applying
power, and that a write cycle cut short keeps its byte, are the model's deductions (log entry 16). -/
def Obligations.PowerKeepsTheArrayAndLosesTheRest : Prop :=
  (∀ s : State, s.serial.powered = true → ∀ t, t = pinSet (.ser .pwr) false s ∨ t = pinMode (.ser .pwr) .input s →
    t.chip.rdyAt = none ∧ t.chip.wbusyUntil ≤ t.now ∧ t.chip.pulse = .idle ∧ t.deadlinesPast = false ∧ SameMem s t)
  ∧ (∀ s : State, s.parallel.powered = true → ∀ t, t = pinSet (.par .pwren) true s ∨ t = pinMode (.par .pwren) .input s →
    t.chip.rdyAt = none ∧ t.chip.wbusyUntil ≤ t.now ∧ t.chip.pulse = .idle ∧ t.deadlinesPast = false ∧ SameMem s t)
  ∧ (∀ (s t : State), (s.serial.pwr = ⟨.output, false⟩ ∧ t = pinSet (.ser .pwr) true s)
      ∨ (s.serial.pwr = ⟨.input, true⟩ ∧ t = pinMode (.ser .pwr) .output s) →
    t.serial.powered = true ∧ t.chip.rdyAt = some (s.now + s.params.tRdySer)
      ∧ t.chip.wbusyUntil = s.chip.wbusyUntil ∧ SameMem s t)
  ∧ ∀ (s t : State), (s.parallel.pwren = ⟨.output, true⟩ ∧ t = pinSet (.par .pwren) false s)
      ∨ (s.parallel.pwren = ⟨.input, false⟩ ∧ t = pinMode (.par .pwren) .output s) →
    t.parallel.powered = true ∧ t.chip.rdyAt = some (s.now + s.params.tRdyPar)
      ∧ t.chip.wbusyUntil = s.chip.wbusyUntil ∧ SameMem s t

/-! ## The serial variant (42_serial_driver.md) -/

/-- R150: `S.SETUP` from any state. A transport that was running is left so (R150). -/
def Obligations.SerialSetupReachesDisabled : Prop :=
  ∀ s : State, s.params.variant = .serial → ∃ t, exec .sSetup s = .next t
    ∧ t.disabledS = true ∧ t.started = false
    ∧ t.serial.a0.lat = s.serial.a0.lat ∧ t.serial.a1.lat = s.serial.a1.lat ∧ t.serial.a2.lat = s.serial.a2.lat
    ∧ t.serial.bclk.lat = s.serial.bclk.lat ∧ t.serial.bdat.lat = s.serial.bdat.lat
    ∧ t.trace = s.trace ++ sDisableEvents
    ∧ t.transport = s.transport ∧ t.answer = s.answer
    ∧ SameRegs s t ∧ SameParallelSide s t ∧ SameMem s t ∧ Completed s t

/-- R151: `S.INIT` from any state. From a transport that was somehow running before, R151 leaves its state unspecified: that
`BusBegin` starts it anew and frees a held bus is R116 as log entry 22 reads it. -/
def Obligations.SerialInitReachesActive : Prop :=
  ∀ s : State, s.params.variant = .serial → ∃ t, exec .sInit s = .next t
    ∧ t.activeS = true ∧ t.started = true ∧ t.transport = ⟨true, s.params.constants.busRateHz, false⟩
    ∧ (s.params.constants = .given → t.transport.rateHz = 400000)
    ∧ t.serial.bclk = s.serial.bclk ∧ t.serial.bdat = s.serial.bdat
    ∧ t.trace = s.trace ++ sInitEvents s.params
    ∧ t.answer = s.answer ∧ SameRegs s t ∧ SameParallelSide s t ∧ SameMem s t ∧ Completed s t

/-- R152, R36, R232: `S.READ` on a started transport, in any phase, issues its two transactions, writes no line register and no flag,
and where the phase makes the result defined returns the first byte of the answer, the sentinel for none. On a transport that is not
started it is refused (U2, vector T34; log entry 9). That it completes outside the Active phase is the choice U1 leaves (log entry
10). -/
def Obligations.SerialReadRunsOnStartedTransport : Prop :=
  ∀ (a : Addr) (s : State), s.params.variant = .serial →
    (s.transport.on = false → exec (.sRead a) s = .refused .busNotStarted)
    ∧ (s.transport.on = true → ∃ t r, exec (.sRead a) s = .next t
      ∧ t.trace = s.trace ++ sReadEvents s.params a r ∧ r.length ≤ 1
      ∧ (s.resultsDefined = true → t.rdata = r.headD s.params.constants.readSentinel ∧ SameMem s t)
      ∧ t.addr = a ∧ t.wdata = s.wdata ∧ t.started = s.started ∧ t.serial = s.serial
      ∧ t.transport = { s.transport with held := false }
      ∧ SameParallelSide s t ∧ Completed s t)

/-- R68, R70, R152: from the Active phase with a responding chip, `S.READ` returns the byte stored at the address. -/
def Obligations.SerialReadReturnsTheStoredByte : Prop :=
  ∀ (a : Addr) (s : State), s.params.variant = .serial → s.resultsDefined = true →
    s.responds (devAddr s.params) = true → ∃ t, exec (.sRead a) s = .next t
    ∧ t.rdata = s.memRead a
    ∧ t.trace = s.trace ++ sReadEvents s.params a [s.memRead a]
    ∧ t.chip.ptr = (cell s.params a + 1) % 2 ^ s.params.addrBits
    ∧ SameMem s t ∧ t.serial = s.serial

/-- R74: `S.READ` from the Active phase with no chip on the bus returns exactly the sentinel, which in this hardware is `0xFF` (R10),
and nothing else tells the host. -/
def Obligations.SerialReadOfAbsentDeviceIsFF : Prop :=
  ∀ (a : Addr) (s : State), s.params.variant = .serial → s.resultsDefined = true → s.params.present = false →
    ∃ t, exec (.sRead a) s = .next t ∧ t.rdata = s.params.constants.readSentinel
    ∧ (s.params.constants = .given → t.rdata = 0xFF#8)
    ∧ t.trace = s.trace ++ sReadEvents s.params a [] ∧ SameMem s t ∧ t.serial = s.serial

/-- R153, R36: `S.WRITE` on a started transport, in any phase, issues its six micro-operations, takes at least the sum of its delays (in
this hardware 10 ms and 1 microsecond, R235), and leaves every line register as it was but `LAT[WP] = 1`; where the phase makes its
effect defined, no other cell changes. On a transport that is not started it is refused (U2, vector T34; log entry 9). That it
completes outside the Active phase is the choice U1 leaves (log entry 10). -/
def Obligations.SerialWriteRunsOnStartedTransport : Prop :=
  ∀ (a : Addr) (x : Byte) (s : State), s.params.variant = .serial →
    (s.transport.on = false → exec (.sWrite a x) s = .refused .busNotStarted)
    ∧ (s.transport.on = true → ∃ t, exec (.sWrite a x) s = .next t
      ∧ t.trace = s.trace ++ sWriteEvents s.params a x
      ∧ t.serial = { s.serial with wp := ⟨s.serial.wp.dir, true⟩ }
      ∧ s.now + s.params.constants.tSerWpUs + s.params.constants.tSerWriteMs * 1000
          + s.params.constants.tSerProtectMs * 1000 ≤ t.now
      ∧ (s.params.constants = .given → s.now + 10001 ≤ t.now)
      ∧ t.addr = a ∧ t.wdata = x ∧ t.rdata = s.rdata ∧ t.started = s.started ∧ t.answer = s.answer
      ∧ t.transport = { s.transport with held := false }
      ∧ (s.resultsDefined = true → SameMemExcept a s t)
      ∧ SameParallelSide s t ∧ Completed s t)

/-- R69, R153: from the Active phase with a responding chip, `S.WRITE` stores the value at the address and nowhere else, and
leaves the lines as they were, write-protect asserted. -/
def Obligations.SerialWriteStoresTheByte : Prop :=
  ∀ (a : Addr) (x : Byte) (s : State), s.params.variant = .serial → s.resultsDefined = true → s.sound = true →
    s.responds (devAddr s.params) = true → ∃ t, exec (.sWrite a x) s = .next t
    ∧ t.memRead a = x ∧ SameMemExcept a s t
    ∧ t.chip.ptr = cell s.params a ∧ t.serial = s.serial ∧ t.activeS = true

/-- R74, R191 (a): with no chip on the bus `S.WRITE` from the Active phase completes with the same trace and stores nothing. -/
def Obligations.SerialWriteToAbsentDeviceStoresNothing : Prop :=
  ∀ (a : Addr) (x : Byte) (s : State), s.params.variant = .serial → s.resultsDefined = true → s.params.present = false →
    ∃ t, exec (.sWrite a x) s = .next t ∧ t.trace = s.trace ++ sWriteEvents s.params a x
    ∧ SameMem s t ∧ t.serial = s.serial

/-- R154: `S.DISABLE` from any state but those in which it would stop a transport that is not started, where it is refused (log
entry 8; O32). That the transport's rate register and `BUSHELD` survive `BusEnd` is the model's reading of R117 (log entry 22). -/
def Obligations.SerialDisableReachesDisabled : Prop :=
  ∀ s : State, s.params.variant = .serial → s.unsafeShutdown = false → ∃ t, exec .sDisable s = .next t
    ∧ t.disabledS = true ∧ t.started = false
    ∧ t.trace = s.trace ++ (if s.started then [.busEnd] else []) ++ sDisableEvents
    ∧ t.transport = (if s.started then { s.transport with on := false } else s.transport)
    ∧ t.serial.a0.lat = s.serial.a0.lat ∧ t.serial.a1.lat = s.serial.a1.lat ∧ t.serial.a2.lat = s.serial.a2.lat
    ∧ t.serial.bclk.lat = s.serial.bclk.lat ∧ t.serial.bdat.lat = s.serial.bdat.lat
    ∧ t.answer = s.answer ∧ SameRegs s t ∧ SameParallelSide s t ∧ SameMem s t ∧ Completed s t

/-- R141 P2: a second `S.DISABLE` at once gives the same line-state vector and flag, and issues no `bus_end`. -/
def Obligations.SerialDisableTwiceIsOnce : Prop :=
  ∀ s t : State, exec .sDisable s = .next t → ∃ u, exec .sDisable t = .next u
    ∧ u.serial = t.serial ∧ u.started = t.started ∧ u.transport = t.transport
    ∧ u.trace = t.trace ++ sDisableEvents ∧ SameMem t u

/-- U12, vector T26: `S.DISABLE` is refused where it would issue `BusEnd` on a transport that is not started (log entry 8). -/
def Obligations.SerialDisableRefusesUnsafeShutdown : Prop :=
  ∀ s : State, s.params.variant = .serial → s.started = true → s.transport.on = false →
    exec .sDisable s = .refused .busEndNotStarted

/-- R51, R73, R52, R234: from the Active phase with a responding chip within the time bounds of R71, `S.WRITE` at `a` and then
`S.READ` at `b` gives the value written when the two addresses name one cell, and what was stored at `b` when they do not. -/
def Obligations.SerialRoundTrip : Prop :=
  ∀ (a b : Addr) (x : Byte) (s : State), s.params.variant = .serial → s.resultsDefined = true → s.sound = true →
    s.responds (devAddr s.params) = true → s.params.timely = true →
    ∃ t u, exec (.sWrite a x) s = .next t ∧ exec (.sRead b) t = .next u
    ∧ u.rdata = if cell s.params b = cell s.params a then x else s.memRead b

/-- R157 (b): a bus write of three bytes is issued only while `LAT[WP] = 0`, a bus write of two bytes and a bus request only by
`S.READ`. -/
def Obligations.DataFramesOnlyWithProtectReleased : Prop :=
  ∀ (i : Instr) (s t : State) (evs : List Event), i.variant = .serial → exec i s = .next t → t.trace = s.trace ++ evs →
    ∀ (n : Nat) (e : Event), evs[n]? = some e →
      (∀ dev b0 b1 b2 stop, e = .busWrite dev [b0, b1, b2] stop →
        (serialAfter s.serial (evs.take n)).wp.lat = false)
      ∧ ((∃ dev b0 b1 stop, e = .busWrite dev [b0, b1] stop) ∨ (∃ dev m stop r, e = .busRequest dev m stop r) →
        ∃ a, i = .sRead a)

/-- R157 (a), (c), (d), (e): the invariants of the serial variant hold between operations. -/
def Obligations.SerialInvariantIsKept : Prop :=
  ∀ s t : State, s.params.variant = .serial → s.seq = .idle → s.serialOk = true → step s = .next t →
    t.seq = .idle ∧ t.serialOk = true

/-- R157: the invariants of the serial variant hold after reset, in the reference fresh state with any parameters (log entry 4:
the state of the lines and of `STARTED` there is the spec's own choice D15). -/
def Obligations.SerialInvariantHoldsAtReset : Prop :=
  (∀ p : Params, (State.fresh p).seq = .idle ∧ (State.fresh p).serialOk = true) ∧ State.reset.serialOk = true

/-! ## The parallel variant (43_parallel_driver.md) -/

/-- R171: `P.SETUP` from any state, reset draws among them; every latch but those of `PWREN` and `SHEN`, and `SR`, are left as they
were. -/
def Obligations.ParallelSetupReachesDisabled : Prop :=
  ∀ s : State, s.params.variant = .parallel → ∃ t, exec .pSetup s = .next t
    ∧ t.disabledP = true
    ∧ (∀ l, l ≠ .pwren → l ≠ .shen → (t.parallel.get l).lat = (s.parallel.get l).lat)
    ∧ t.trace = s.trace ++ pSetupEvents
    ∧ t.sr = s.sr
    ∧ t.sampled = s.sampled ∧ SameRegs s t ∧ SameSerialSide s t ∧ SameMem s t ∧ Completed s t

/-- R172: `P.INIT` in any phase, where its steps meet no bus contention; where they would, it is refused (R222, U7; log entry 12).
The array is as it was but for the cell that a stray write pulse of the first `Drive` of `WE` takes (R223, U16), and wholly as it was
where `LAT[WE] = 1`; and wholly as it was, with the premise `NO_WRITE_BEFORE_READY` (U16), where the init powers the chip up and the
pulse ends within `T_RDY_PAR` of that. -/
def Obligations.ParallelInitRunsWithoutContention : Prop :=
  ∀ s : State, s.params.variant = .parallel →
    (s.initContends = true → exec .pInit s = .refused .busContention)
    ∧ (s.initContends = false → ∃ t, exec .pInit s = .next t
      ∧ t.parallel = { s.parallel with
          pwren := ⟨s.parallel.pwren.dir, false⟩, we := ⟨.output, true⟩, oe := ⟨.output, true⟩
          shen := ⟨s.parallel.shen.dir, true⟩ }
      ∧ t.trace = s.trace ++ pInitEvents s.params
      ∧ s.now + s.params.constants.tParPowerMs * 1000 ≤ t.now
      ∧ (s.params.constants = .given → s.now + 100000 ≤ t.now)
      ∧ t.sr = s.sr ∧ t.sampled = s.sampled
      ∧ (∀ b : Addr,
          cell s.params b ≠ cell s.params
            (pinMode (.par .we) .output (pinSet (.par .pwren) false (accept .init s))).pulseAddr →
          t.memRead b = s.memRead b)
      ∧ (s.parallel.we.lat = true → SameMem s t)
      ∧ (s.params.noWriteBeforeReady = true → s.parallel.powered = false →
          s.slack.headD 0 + s.slack.tail.headD 0 < s.params.tRdyPar → SameMem s t)
      ∧ SameRegs s t ∧ SameSerialSide s t ∧ Completed s t)

/-- R172, R39: `P.INIT` ends in `Active_P` once setup has run. -/
def Obligations.ParallelInitReachesActive : Prop :=
  ∀ s : State, s.params.variant = .parallel → s.parallel.ok = true → s.sound = true →
    ∃ t, exec .pInit s = .next t ∧ t.activeP = true

/-- R173, R36, R232: `P.READ` in any phase issues its 61 events with some sampled levels, of an output line its latch, writes no
direction, takes at least the sum of its delays (in this hardware 2 microseconds, R235), and leaves every latch as it was but
`SHCLK` at 0, `SHDAT` at `ADDR[0]`, `OE` at 1; where the phase makes the result defined, bit `i` of `RDATA` is the level sampled on
`Di` and the array is as it was. Where its step 2 would cause bus contention it is refused (R222, U7; log entry 12). That it
completes outside the Active phase is the choice U1 leaves (log entry 10). -/
def Obligations.ParallelReadRunsWithoutContention : Prop :=
  ∀ (a : Addr) (s : State), s.params.variant = .parallel →
    (s.readContends = true → exec (.pRead a) s = .refused .busContention)
    ∧ (s.readContends = false → ∃ t g, exec (.pRead a) s = .next t
      ∧ g.length = 8 ∧ t.trace = s.trace ++ pReadEvents s.params a g
      ∧ (∀ p ∈ dataLines, (s.parallel.get p.1).dir = .output → g.getD p.2 false = (s.parallel.get p.1).lat)
      ∧ t.parallel = { s.parallel with
          shclk := ⟨s.parallel.shclk.dir, false⟩, shdat := ⟨s.parallel.shdat.dir, a.getLsbD 0⟩
          oe := ⟨s.parallel.oe.dir, true⟩ }
      ∧ (s.parallel.shclk.dir = .output → s.parallel.shdat.dir = .output → t.sr = a)
      ∧ (s.resultsDefined = true → (∀ i, i < 8 → t.rdata.getLsbD i = g.getD i false) ∧ SameMem s t)
      ∧ s.now + s.params.constants.tParOeUs + s.params.constants.tParOeOffUs ≤ t.now
      ∧ (s.params.constants = .given → s.now + 2 ≤ t.now)
      ∧ t.addr = a ∧ t.wdata = s.wdata ∧ t.pwrenLowAt = s.pwrenLowAt ∧ SameSerialSide s t ∧ Completed s t)

/-- R65, R173: from the Active phase with a ready chip, `P.READ` returns the byte stored at the address. -/
def Obligations.ParallelReadReturnsTheStoredByte : Prop :=
  ∀ (a : Addr) (s : State), s.params.variant = .parallel → s.resultsDefined = true → s.parallelReady = true →
    ∃ t, exec (.pRead a) s = .next t
    ∧ t.rdata = s.memRead a ∧ t.sr = a
    ∧ t.trace = s.trace ++ pReadEvents s.params a (dataBits (s.memRead a))
    ∧ SameMem s t ∧ t.activeP = true

/-- R174, R36: `P.WRITE` in any phase issues its 78 events, takes at least the sum of its delays (in this hardware 10 ms and 2
microseconds, R235), and leaves every data line an input with its latch at its bit of `value`, `SHCLK` at 0, `SHDAT` at `ADDR[0]`,
`WE` at 1 and every other line register as it was; where the phase makes its effect defined, no other cell changes. Where its step
2 would cause bus contention it is refused (R222, U7; log entry 12). That it
completes outside the Active phase is the choice U1 leaves (log entry 10). -/
def Obligations.ParallelWriteRunsWithoutContention : Prop :=
  ∀ (a : Addr) (x : Byte) (s : State), s.params.variant = .parallel →
    (s.writeContends = true → exec (.pWrite a x) s = .refused .busContention)
    ∧ (s.writeContends = false → ∃ t, exec (.pWrite a x) s = .next t
      ∧ t.trace = s.trace ++ pWriteEvents s.params a x
      ∧ t.parallel = { s.parallel with
          d0 := ⟨.input, x.getLsbD 0⟩, d1 := ⟨.input, x.getLsbD 1⟩, d2 := ⟨.input, x.getLsbD 2⟩
          d3 := ⟨.input, x.getLsbD 3⟩, d4 := ⟨.input, x.getLsbD 4⟩, d5 := ⟨.input, x.getLsbD 5⟩
          d6 := ⟨.input, x.getLsbD 6⟩, d7 := ⟨.input, x.getLsbD 7⟩
          shclk := ⟨s.parallel.shclk.dir, false⟩, shdat := ⟨s.parallel.shdat.dir, a.getLsbD 0⟩
          we := ⟨s.parallel.we.dir, true⟩ }
      ∧ (s.parallel.shclk.dir = .output → s.parallel.shdat.dir = .output → t.sr = a)
      ∧ (s.resultsDefined = true → SameMemExcept a s t)
      ∧ s.now + s.params.constants.tParSetupUs + s.params.constants.tParWeUs + s.params.constants.tParWriteMs * 1000 ≤ t.now
      ∧ (s.params.constants = .given → s.now + 10002 ≤ t.now)
      ∧ t.addr = a ∧ t.wdata = x ∧ t.rdata = s.rdata ∧ t.pwrenLowAt = s.pwrenLowAt ∧ t.sampled = s.sampled
      ∧ SameSerialSide s t ∧ Completed s t)

/-- R66, R174: from the Active phase with a ready chip, `P.WRITE` stores the value at the address and nowhere else. -/
def Obligations.ParallelWriteStoresTheByte : Prop :=
  ∀ (a : Addr) (x : Byte) (s : State), s.params.variant = .parallel → s.resultsDefined = true → s.sound = true →
    s.parallelReady = true → ∃ t, exec (.pWrite a x) s = .next t
    ∧ t.memRead a = x ∧ SameMemExcept a s t ∧ t.sr = a ∧ t.activeP = true

/-- R175: `P.DISABLE` from any state; `Disabled_P` where setup has made its four lines outputs. -/
def Obligations.ParallelDisablePowersOff : Prop :=
  ∀ s : State, s.params.variant = .parallel → ∃ t, exec .pDisable s = .next t
    ∧ t.trace = s.trace ++ pDisableEvents
    ∧ t.parallel.pwren = ⟨s.parallel.pwren.dir, true⟩ ∧ t.parallel.shen = ⟨s.parallel.shen.dir, false⟩
    ∧ t.parallel.shclk = s.parallel.shclk ∧ t.parallel.shdat = s.parallel.shdat
    ∧ t.parallel.we = ⟨.input, s.parallel.we.lat⟩ ∧ t.parallel.oe = ⟨.input, s.parallel.oe.lat⟩
    ∧ (∀ p ∈ dataLines, t.parallel.get p.1 = ⟨.input, (s.parallel.get p.1).lat⟩)
    ∧ (s.parallel.pwren.dir = .output → s.parallel.shen.dir = .output → s.parallel.shclk.dir = .output →
        s.parallel.shdat.dir = .output → t.disabledP = true)
    ∧ t.sr = s.sr ∧ t.sampled = s.sampled ∧ SameRegs s t ∧ SameSerialSide s t ∧ SameMem s t ∧ Completed s t

/-- R141 P2: a second `P.DISABLE` at once gives the same line-state vector. -/
def Obligations.ParallelDisableTwiceIsOnce : Prop :=
  ∀ s t : State, exec .pDisable s = .next t → ∃ u, exec .pDisable t = .next u
    ∧ u.parallel = t.parallel ∧ u.sr = t.sr ∧ u.trace = t.trace ++ pDisableEvents ∧ SameMem t u

/-- R51, R72, R52, R234: from the Active phase with a ready chip within the time bounds of R71, `P.WRITE` at `a` and then `P.READ` at
`b` gives the value written when the two addresses name one cell, and what was stored at `b` when they do not. -/
def Obligations.ParallelRoundTrip : Prop :=
  ∀ (a b : Addr) (x : Byte) (s : State), s.params.variant = .parallel → s.resultsDefined = true → s.sound = true →
    s.parallelReady = true → s.params.timely = true →
    ∃ t u, exec (.pWrite a x) s = .next t ∧ exec (.pRead b) t = .next u
    ∧ u.rdata = if cell s.params b = cell s.params a then x else s.memRead b

/-- R181 (a), (d), R141 P4: at every point of every operation of a block on which setup has run, the block and the chip do not both
drive the data bus, `WE` and `OE` are not both low, and `WE` is not low while power is off. -/
def Obligations.ParallelLinesAreNeverUnsafe : Prop :=
  ∀ (i : Instr) (s t : State) (evs : List Event), i.variant = .parallel → s.parallel.ok = true → exec i s = .next t →
    t.trace = s.trace ++ evs → ∀ n,
      (parallelAfter s.parallel (evs.take n)).busSafe = true ∧ (parallelAfter s.parallel (evs.take n)).controlSafe = true

/-- R181 (a), (b), (f): the invariants of the parallel variant hold between operations, once setup has run. -/
def Obligations.ParallelInvariantIsKept : Prop :=
  ∀ s t : State, s.params.variant = .parallel → s.seq = .idle → s.parallel.ok = true → step s = .next t →
    t.seq = .idle ∧ t.parallel.ok = true

/-- R171, R181: `P.SETUP` establishes the invariants of the parallel variant from any state. -/
def Obligations.ParallelSetupEstablishesInvariant : Prop :=
  ∀ s : State, s.params.variant = .parallel → ∃ t, exec .pSetup s = .next t ∧ t.seq = .idle ∧ t.parallel.ok = true

/-! ## The whole machine -/

/-- Every step of every block keeps the array in canonical form over the cells the chip has (R52), the serial pointer one of them
(R67), and the time of the last fall of `LAT[PWREN]` in the past (R39). -/
def Obligations.SoundStateIsKept : Prop :=
  ∀ s t : State, s.sound = true → step s = .next t → t.sound = true

/-- The same holds after reset, in the reference fresh state with any parameters: an empty array is in canonical form (log entry
20: every cell erased), `PTR = 0` names a cell and the time of the last fall is 0 (log entry 5: the model's values). -/
def Obligations.SoundStateHoldsAtReset : Prop :=
  (∀ p : Params, (State.fresh p).sound = true) ∧ State.reset.sound = true

/-- R15, R30, R114: every step extends the trace by events that determine what becomes of the line registers of both variants, and
time does not run back. -/
def Obligations.TraceDeterminesTheLines : Prop :=
  ∀ s t : State, step s = .next t → ∃ evs, t.trace = s.trace ++ evs
    ∧ t.serial = serialAfter s.serial evs ∧ t.parallel = parallelAfter s.parallel evs ∧ s.now ≤ t.now

/-- R83, R130: no step changes the parameters, and a block's steps touch nothing of the other variant. -/
def Obligations.StepStaysWithinItsVariant : Prop :=
  ∀ s t : State, step s = .next t → t.params = s.params
    ∧ (s.params.variant = .serial → SameParallelSide s t) ∧ (s.params.variant = .parallel → SameSerialSide s t)

/-- R21, R22, R23: only a readByte writes `RDATA`, only READ and WRITE write `ADDR`, only WRITE writes `WDATA`, and those load the
operands of the command. -/
def Obligations.OperandRegistersAreWrittenByTheirOperations : Prop :=
  ∀ (i : Instr) (s t : State), exec i s = .next t →
    (i.op ≠ .read → t.rdata = s.rdata)
    ∧ (i.op ≠ .write → t.wdata = s.wdata) ∧ (i.op = .write → t.wdata = i.valueField)
    ∧ (i.op ≠ .read → i.op ≠ .write → t.addr = s.addr) ∧ (i.op = .read ∨ i.op = .write → t.addr = i.addressField)

/-- R155, R179: the numbers of micro-operations of the ten operations. -/
def Obligations.OperationsIssueTheirEventCounts : Prop :=
  ∀ (s t : State),
    (exec .sSetup s = .next t → t.trace.length = s.trace.length + 9)
    ∧ (exec .sInit s = .next t → t.trace.length = s.trace.length + 11)
    ∧ (∀ a, exec (.sRead a) s = .next t → t.trace.length = s.trace.length + 2)
    ∧ (∀ a x, exec (.sWrite a x) s = .next t → t.trace.length = s.trace.length + 6)
    ∧ (exec .sDisable s = .next t → t.trace.length = s.trace.length + if s.started then 10 else 9)
    ∧ (exec .pSetup s = .next t → t.trace.length = s.trace.length + 16)
    ∧ (exec .pInit s = .next t → t.trace.length = s.trace.length + 7)
    ∧ (∀ a, exec (.pRead a) s = .next t → t.trace.length = s.trace.length + 61)
    ∧ (∀ a x, exec (.pWrite a x) s = .next t → t.trace.length = s.trace.length + 78)
    ∧ (exec .pDisable s = .next t → t.trace.length = s.trace.length + 12)

/-- R213, R214, R37: from any state at all, setup and then init make the results of readByte and writeByte defined. -/
def Obligations.SetupThenInitIsActive : Prop :=
  (∀ s : State, s.params.variant = .serial →
    ∃ t u, exec .sSetup s = .next t ∧ exec .sInit t = .next u ∧ u.resultsDefined = true)
  ∧ (∀ s : State, s.params.variant = .parallel →
    ∃ t u, exec .pSetup s = .next t ∧ exec .pInit t = .next u ∧ u.resultsDefined = true)

/-- R141 P7, R51: from any state of a block with a chip within the time bounds of R71, `setup(); init(); writeByte(a, x);
readByte(a)` ends with `RDATA = x`, for both variants, whatever the first init's stray write does (U16: its write cycle, no longer
than init's delay by the values of R10, is over when init ends). -/
def Obligations.LifecycleRoundTrip : Prop :=
  (∀ (a : Addr) (x : Byte) (s : State), s.params.variant = .serial → s.params.present = true → s.params.timely = true →
    s.sound = true → s.chip.wbusyUntil ≤ s.now →
    ∃ t u v w, exec .sSetup s = .next t ∧ exec .sInit t = .next u ∧ exec (.sWrite a x) u = .next v
      ∧ exec (.sRead a) v = .next w ∧ w.rdata = x)
  ∧ (∀ (a : Addr) (x : Byte) (s : State), s.params.variant = .parallel → s.params.present = true →
    s.params.timely = true → s.params.constants.tParWriteMs ≤ s.params.constants.tParPowerMs → s.sound = true →
    s.chip.wbusyUntil ≤ s.now →
    ∃ t u v w, exec .pSetup s = .next t ∧ exec .pInit t = .next u ∧ exec (.pWrite a x) u = .next v
      ∧ exec (.pRead a) v = .next w ∧ w.rdata = x)

/-- R37, R210: after reset, with any parameters, the block is idle, the bus free, the time 0, the chip unpowered and no event
issued, as the spec states; every cell reads `0xFF`, which R37 states of a never-written cell, while that none was written before is
the reference fresh state's (D15) and the model's choice (log entry 20). `State.reset` carries the constants of R10, and pins that
are pairwise distinct within each variant (D22; log entry 26). -/
def Obligations.ResetIsAsTheSpecStates : Prop :=
  (∀ p : Params, (State.fresh p).seq = .idle ∧ (State.fresh p).busy = false ∧ (State.fresh p).transport.held = false
    ∧ (State.fresh p).now = 0 ∧ (∀ a : Addr, (State.fresh p).memRead a = 0xFF#8) ∧ (State.fresh p).trace = []
    ∧ (State.fresh p).chip.rdyAt = none)
  ∧ State.reset.params.constants = ⟨400000, 0xFF#8, 1, 5, 5, 100, 1, 1, 1, 1, 10⟩
  ∧ ∀ v, State.reset.params.pins.distinct v = true

/-- R141 P8, C2: from the reference fresh state (log entry 4: the spec's own choice D15) serial setup and serial disable end with
the same line registers and flag; parallel setup and parallel disable end with the same latches, and with directions that differ
exactly at `PWREN`, `SHEN`, `SHCLK`, `SHDAT`. -/
def Obligations.SetupAgainstDisableFromFresh : Prop :=
  (∀ (p : Params) (t u : State), exec .sSetup (State.fresh p) = .next t → exec .sDisable (State.fresh p) = .next u →
    t.serial = u.serial ∧ t.started = u.started)
  ∧ (∀ (p : Params) (t u : State), exec .pSetup (State.fresh p) = .next t → exec .pDisable (State.fresh p) = .next u →
    ∀ l, (t.parallel.get l).lat = (u.parallel.get l).lat
      ∧ ((t.parallel.get l).dir ≠ (u.parallel.get l).dir ↔ l = .pwren ∨ l = .shen ∨ l = .shclk ∨ l = .shdat))

/-- R150, R157: `S.SETUP` establishes the invariants of the serial variant from any state with a free bus (`BUSHELD = 0`, as
whenever the block is idle: R32). -/
def Obligations.SerialSetupEstablishesInvariant : Prop :=
  ∀ s : State, s.params.variant = .serial → s.transport.held = false →
    ∃ t, exec .sSetup s = .next t ∧ t.seq = .idle ∧ t.serialOk = true
end

