-- ==== Sys2Proof/Laws/State.lean ====
section
/-! SUPPORT. One lemma per field per named update of State, each true by rfl, so that no later proof unfolds an update. -/

namespace Sys2Proof.Machine

/-! ## emit -/

@[simp] theorem emit_params (e : Event) (s : State) : (s.emit e).params = s.params := (rfl)
@[simp] theorem emit_addr (e : Event) (s : State) : (s.emit e).addr = s.addr := (rfl)
@[simp] theorem emit_wdata (e : Event) (s : State) : (s.emit e).wdata = s.wdata := (rfl)
@[simp] theorem emit_rdata (e : Event) (s : State) : (s.emit e).rdata = s.rdata := (rfl)
@[simp] theorem emit_seq (e : Event) (s : State) : (s.emit e).seq = s.seq := (rfl)
@[simp] theorem emit_started (e : Event) (s : State) : (s.emit e).started = s.started := (rfl)
@[simp] theorem emit_serial (e : Event) (s : State) : (s.emit e).serial = s.serial := (rfl)
@[simp] theorem emit_parallel (e : Event) (s : State) : (s.emit e).parallel = s.parallel := (rfl)
@[simp] theorem emit_sr (e : Event) (s : State) : (s.emit e).sr = s.sr := (rfl)
@[simp] theorem emit_transport (e : Event) (s : State) : (s.emit e).transport = s.transport := (rfl)
@[simp] theorem emit_chip (e : Event) (s : State) : (s.emit e).chip = s.chip := (rfl)
@[simp] theorem emit_now (e : Event) (s : State) : (s.emit e).now = s.now := (rfl)
@[simp] theorem emit_pwrenLowAt (e : Event) (s : State) : (s.emit e).pwrenLowAt = s.pwrenLowAt := (rfl)
@[simp] theorem emit_log (e : Event) (s : State) : (s.emit e).log = e :: s.log := (rfl)
@[simp] theorem emit_answer (e : Event) (s : State) : (s.emit e).answer = s.answer := (rfl)
@[simp] theorem emit_sampled (e : Event) (s : State) : (s.emit e).sampled = s.sampled := (rfl)
@[simp] theorem emit_host (e : Event) (s : State) : (s.emit e).host = s.host := (rfl)
@[simp] theorem emit_inPhase (e : Event) (s : State) : (s.emit e).inPhase = s.inPhase := (rfl)
@[simp] theorem emit_slack (e : Event) (s : State) : (s.emit e).slack = s.slack := (rfl)
@[simp] theorem emit_draws (e : Event) (s : State) : (s.emit e).draws = s.draws := (rfl)

/-! ## tick -/

@[simp] theorem tick_params (n : Nat) (s : State) : (s.tick n).params = s.params := (rfl)
@[simp] theorem tick_addr (n : Nat) (s : State) : (s.tick n).addr = s.addr := (rfl)
@[simp] theorem tick_wdata (n : Nat) (s : State) : (s.tick n).wdata = s.wdata := (rfl)
@[simp] theorem tick_rdata (n : Nat) (s : State) : (s.tick n).rdata = s.rdata := (rfl)
@[simp] theorem tick_seq (n : Nat) (s : State) : (s.tick n).seq = s.seq := (rfl)
@[simp] theorem tick_started (n : Nat) (s : State) : (s.tick n).started = s.started := (rfl)
@[simp] theorem tick_serial (n : Nat) (s : State) : (s.tick n).serial = s.serial := (rfl)
@[simp] theorem tick_parallel (n : Nat) (s : State) : (s.tick n).parallel = s.parallel := (rfl)
@[simp] theorem tick_sr (n : Nat) (s : State) : (s.tick n).sr = s.sr := (rfl)
@[simp] theorem tick_transport (n : Nat) (s : State) : (s.tick n).transport = s.transport := (rfl)
@[simp] theorem tick_chip (n : Nat) (s : State) : (s.tick n).chip = s.chip := (rfl)
@[simp] theorem tick_now (n : Nat) (s : State) : (s.tick n).now = s.now + n + s.slack.headD 0 := (rfl)
@[simp] theorem tick_pwrenLowAt (n : Nat) (s : State) : (s.tick n).pwrenLowAt = s.pwrenLowAt := (rfl)
@[simp] theorem tick_log (n : Nat) (s : State) : (s.tick n).log = s.log := (rfl)
@[simp] theorem tick_answer (n : Nat) (s : State) : (s.tick n).answer = s.answer := (rfl)
@[simp] theorem tick_sampled (n : Nat) (s : State) : (s.tick n).sampled = s.sampled := (rfl)
@[simp] theorem tick_host (n : Nat) (s : State) : (s.tick n).host = s.host := (rfl)
@[simp] theorem tick_inPhase (n : Nat) (s : State) : (s.tick n).inPhase = s.inPhase := (rfl)
@[simp] theorem tick_slack (n : Nat) (s : State) : (s.tick n).slack = s.slack.tail := (rfl)
@[simp] theorem tick_draws (n : Nat) (s : State) : (s.tick n).draws = s.draws := (rfl)

/-! ## draw -/

@[simp] theorem draw_params (s : State) : (s.draw).params = s.params := (rfl)
@[simp] theorem draw_addr (s : State) : (s.draw).addr = s.addr := (rfl)
@[simp] theorem draw_wdata (s : State) : (s.draw).wdata = s.wdata := (rfl)
@[simp] theorem draw_rdata (s : State) : (s.draw).rdata = s.rdata := (rfl)
@[simp] theorem draw_seq (s : State) : (s.draw).seq = s.seq := (rfl)
@[simp] theorem draw_started (s : State) : (s.draw).started = s.started := (rfl)
@[simp] theorem draw_serial (s : State) : (s.draw).serial = s.serial := (rfl)
@[simp] theorem draw_parallel (s : State) : (s.draw).parallel = s.parallel := (rfl)
@[simp] theorem draw_sr (s : State) : (s.draw).sr = s.sr := (rfl)
@[simp] theorem draw_transport (s : State) : (s.draw).transport = s.transport := (rfl)
@[simp] theorem draw_chip (s : State) : (s.draw).chip = s.chip := (rfl)
@[simp] theorem draw_now (s : State) : (s.draw).now = s.now := (rfl)
@[simp] theorem draw_pwrenLowAt (s : State) : (s.draw).pwrenLowAt = s.pwrenLowAt := (rfl)
@[simp] theorem draw_log (s : State) : (s.draw).log = s.log := (rfl)
@[simp] theorem draw_answer (s : State) : (s.draw).answer = s.answer := (rfl)
@[simp] theorem draw_sampled (s : State) : (s.draw).sampled = s.sampled := (rfl)
@[simp] theorem draw_host (s : State) : (s.draw).host = s.host := (rfl)
@[simp] theorem draw_inPhase (s : State) : (s.draw).inPhase = s.inPhase := (rfl)
@[simp] theorem draw_slack (s : State) : (s.draw).slack = s.slack := (rfl)
@[simp] theorem draw_draws (s : State) : (s.draw).draws = s.draws + 1 := (rfl)

/-! ## setPulse -/

@[simp] theorem setPulse_params (p : Pulse) (s : State) : (s.setPulse p).params = s.params := (rfl)
@[simp] theorem setPulse_addr (p : Pulse) (s : State) : (s.setPulse p).addr = s.addr := (rfl)
@[simp] theorem setPulse_wdata (p : Pulse) (s : State) : (s.setPulse p).wdata = s.wdata := (rfl)
@[simp] theorem setPulse_rdata (p : Pulse) (s : State) : (s.setPulse p).rdata = s.rdata := (rfl)
@[simp] theorem setPulse_seq (p : Pulse) (s : State) : (s.setPulse p).seq = s.seq := (rfl)
@[simp] theorem setPulse_started (p : Pulse) (s : State) : (s.setPulse p).started = s.started := (rfl)
@[simp] theorem setPulse_serial (p : Pulse) (s : State) : (s.setPulse p).serial = s.serial := (rfl)
@[simp] theorem setPulse_parallel (p : Pulse) (s : State) : (s.setPulse p).parallel = s.parallel := (rfl)
@[simp] theorem setPulse_sr (p : Pulse) (s : State) : (s.setPulse p).sr = s.sr := (rfl)
@[simp] theorem setPulse_transport (p : Pulse) (s : State) : (s.setPulse p).transport = s.transport := (rfl)
@[simp] theorem setPulse_chip (p : Pulse) (s : State) : (s.setPulse p).chip = { s.chip with pulse := p } := (rfl)
@[simp] theorem setPulse_now (p : Pulse) (s : State) : (s.setPulse p).now = s.now := (rfl)
@[simp] theorem setPulse_pwrenLowAt (p : Pulse) (s : State) : (s.setPulse p).pwrenLowAt = s.pwrenLowAt := (rfl)
@[simp] theorem setPulse_log (p : Pulse) (s : State) : (s.setPulse p).log = s.log := (rfl)
@[simp] theorem setPulse_answer (p : Pulse) (s : State) : (s.setPulse p).answer = s.answer := (rfl)
@[simp] theorem setPulse_sampled (p : Pulse) (s : State) : (s.setPulse p).sampled = s.sampled := (rfl)
@[simp] theorem setPulse_host (p : Pulse) (s : State) : (s.setPulse p).host = s.host := (rfl)
@[simp] theorem setPulse_inPhase (p : Pulse) (s : State) : (s.setPulse p).inPhase = s.inPhase := (rfl)
@[simp] theorem setPulse_slack (p : Pulse) (s : State) : (s.setPulse p).slack = s.slack := (rfl)
@[simp] theorem setPulse_draws (p : Pulse) (s : State) : (s.setPulse p).draws = s.draws := (rfl)

/-! ## memWrite -/

@[simp] theorem memWrite_params (a : Addr) (v : Byte) (s : State) : (s.memWrite a v).params = s.params := (rfl)
@[simp] theorem memWrite_addr (a : Addr) (v : Byte) (s : State) : (s.memWrite a v).addr = s.addr := (rfl)
@[simp] theorem memWrite_wdata (a : Addr) (v : Byte) (s : State) : (s.memWrite a v).wdata = s.wdata := (rfl)
@[simp] theorem memWrite_rdata (a : Addr) (v : Byte) (s : State) : (s.memWrite a v).rdata = s.rdata := (rfl)
@[simp] theorem memWrite_seq (a : Addr) (v : Byte) (s : State) : (s.memWrite a v).seq = s.seq := (rfl)
@[simp] theorem memWrite_started (a : Addr) (v : Byte) (s : State) : (s.memWrite a v).started = s.started := (rfl)
@[simp] theorem memWrite_serial (a : Addr) (v : Byte) (s : State) : (s.memWrite a v).serial = s.serial := (rfl)
@[simp] theorem memWrite_parallel (a : Addr) (v : Byte) (s : State) : (s.memWrite a v).parallel = s.parallel := (rfl)
@[simp] theorem memWrite_sr (a : Addr) (v : Byte) (s : State) : (s.memWrite a v).sr = s.sr := (rfl)
@[simp] theorem memWrite_transport (a : Addr) (v : Byte) (s : State) : (s.memWrite a v).transport = s.transport := (rfl)
@[simp] theorem memWrite_chip (a : Addr) (v : Byte) (s : State) : (s.memWrite a v).chip = { s.chip with mem := Memory.write s.chip.mem (cell s.params a) v } := (rfl)
@[simp] theorem memWrite_now (a : Addr) (v : Byte) (s : State) : (s.memWrite a v).now = s.now := (rfl)
@[simp] theorem memWrite_pwrenLowAt (a : Addr) (v : Byte) (s : State) : (s.memWrite a v).pwrenLowAt = s.pwrenLowAt := (rfl)
@[simp] theorem memWrite_log (a : Addr) (v : Byte) (s : State) : (s.memWrite a v).log = s.log := (rfl)
@[simp] theorem memWrite_answer (a : Addr) (v : Byte) (s : State) : (s.memWrite a v).answer = s.answer := (rfl)
@[simp] theorem memWrite_sampled (a : Addr) (v : Byte) (s : State) : (s.memWrite a v).sampled = s.sampled := (rfl)
@[simp] theorem memWrite_host (a : Addr) (v : Byte) (s : State) : (s.memWrite a v).host = s.host := (rfl)
@[simp] theorem memWrite_inPhase (a : Addr) (v : Byte) (s : State) : (s.memWrite a v).inPhase = s.inPhase := (rfl)
@[simp] theorem memWrite_slack (a : Addr) (v : Byte) (s : State) : (s.memWrite a v).slack = s.slack := (rfl)
@[simp] theorem memWrite_draws (a : Addr) (v : Byte) (s : State) : (s.memWrite a v).draws = s.draws := (rfl)

/-! ## setPointer -/

@[simp] theorem setPointer_params (a : Addr) (s : State) : (s.setPointer a).params = s.params := (rfl)
@[simp] theorem setPointer_addr (a : Addr) (s : State) : (s.setPointer a).addr = s.addr := (rfl)
@[simp] theorem setPointer_wdata (a : Addr) (s : State) : (s.setPointer a).wdata = s.wdata := (rfl)
@[simp] theorem setPointer_rdata (a : Addr) (s : State) : (s.setPointer a).rdata = s.rdata := (rfl)
@[simp] theorem setPointer_seq (a : Addr) (s : State) : (s.setPointer a).seq = s.seq := (rfl)
@[simp] theorem setPointer_started (a : Addr) (s : State) : (s.setPointer a).started = s.started := (rfl)
@[simp] theorem setPointer_serial (a : Addr) (s : State) : (s.setPointer a).serial = s.serial := (rfl)
@[simp] theorem setPointer_parallel (a : Addr) (s : State) : (s.setPointer a).parallel = s.parallel := (rfl)
@[simp] theorem setPointer_sr (a : Addr) (s : State) : (s.setPointer a).sr = s.sr := (rfl)
@[simp] theorem setPointer_transport (a : Addr) (s : State) : (s.setPointer a).transport = s.transport := (rfl)
@[simp] theorem setPointer_chip (a : Addr) (s : State) : (s.setPointer a).chip = { s.chip with ptr := cell s.params a } := (rfl)
@[simp] theorem setPointer_now (a : Addr) (s : State) : (s.setPointer a).now = s.now := (rfl)
@[simp] theorem setPointer_pwrenLowAt (a : Addr) (s : State) : (s.setPointer a).pwrenLowAt = s.pwrenLowAt := (rfl)
@[simp] theorem setPointer_log (a : Addr) (s : State) : (s.setPointer a).log = s.log := (rfl)
@[simp] theorem setPointer_answer (a : Addr) (s : State) : (s.setPointer a).answer = s.answer := (rfl)
@[simp] theorem setPointer_sampled (a : Addr) (s : State) : (s.setPointer a).sampled = s.sampled := (rfl)
@[simp] theorem setPointer_host (a : Addr) (s : State) : (s.setPointer a).host = s.host := (rfl)
@[simp] theorem setPointer_inPhase (a : Addr) (s : State) : (s.setPointer a).inPhase = s.inPhase := (rfl)
@[simp] theorem setPointer_slack (a : Addr) (s : State) : (s.setPointer a).slack = s.slack := (rfl)
@[simp] theorem setPointer_draws (a : Addr) (s : State) : (s.setPointer a).draws = s.draws := (rfl)

/-! ## advancePointer -/

@[simp] theorem advancePointer_params (s : State) : (s.advancePointer).params = s.params := (rfl)
@[simp] theorem advancePointer_addr (s : State) : (s.advancePointer).addr = s.addr := (rfl)
@[simp] theorem advancePointer_wdata (s : State) : (s.advancePointer).wdata = s.wdata := (rfl)
@[simp] theorem advancePointer_rdata (s : State) : (s.advancePointer).rdata = s.rdata := (rfl)
@[simp] theorem advancePointer_seq (s : State) : (s.advancePointer).seq = s.seq := (rfl)
@[simp] theorem advancePointer_started (s : State) : (s.advancePointer).started = s.started := (rfl)
@[simp] theorem advancePointer_serial (s : State) : (s.advancePointer).serial = s.serial := (rfl)
@[simp] theorem advancePointer_parallel (s : State) : (s.advancePointer).parallel = s.parallel := (rfl)
@[simp] theorem advancePointer_sr (s : State) : (s.advancePointer).sr = s.sr := (rfl)
@[simp] theorem advancePointer_transport (s : State) : (s.advancePointer).transport = s.transport := (rfl)
@[simp] theorem advancePointer_chip (s : State) : (s.advancePointer).chip = { s.chip with ptr := (s.chip.ptr + 1) % 2 ^ s.params.addrBits } := (rfl)
@[simp] theorem advancePointer_now (s : State) : (s.advancePointer).now = s.now := (rfl)
@[simp] theorem advancePointer_pwrenLowAt (s : State) : (s.advancePointer).pwrenLowAt = s.pwrenLowAt := (rfl)
@[simp] theorem advancePointer_log (s : State) : (s.advancePointer).log = s.log := (rfl)
@[simp] theorem advancePointer_answer (s : State) : (s.advancePointer).answer = s.answer := (rfl)
@[simp] theorem advancePointer_sampled (s : State) : (s.advancePointer).sampled = s.sampled := (rfl)
@[simp] theorem advancePointer_host (s : State) : (s.advancePointer).host = s.host := (rfl)
@[simp] theorem advancePointer_inPhase (s : State) : (s.advancePointer).inPhase = s.inPhase := (rfl)
@[simp] theorem advancePointer_slack (s : State) : (s.advancePointer).slack = s.slack := (rfl)
@[simp] theorem advancePointer_draws (s : State) : (s.advancePointer).draws = s.draws := (rfl)

/-! ## setStarted -/

@[simp] theorem setStarted_params (v : Bool) (s : State) : (setStarted v s).params = s.params := (rfl)
@[simp] theorem setStarted_addr (v : Bool) (s : State) : (setStarted v s).addr = s.addr := (rfl)
@[simp] theorem setStarted_wdata (v : Bool) (s : State) : (setStarted v s).wdata = s.wdata := (rfl)
@[simp] theorem setStarted_rdata (v : Bool) (s : State) : (setStarted v s).rdata = s.rdata := (rfl)
@[simp] theorem setStarted_seq (v : Bool) (s : State) : (setStarted v s).seq = s.seq := (rfl)
@[simp] theorem setStarted_started (v : Bool) (s : State) : (setStarted v s).started = v := (rfl)
@[simp] theorem setStarted_serial (v : Bool) (s : State) : (setStarted v s).serial = s.serial := (rfl)
@[simp] theorem setStarted_parallel (v : Bool) (s : State) : (setStarted v s).parallel = s.parallel := (rfl)
@[simp] theorem setStarted_sr (v : Bool) (s : State) : (setStarted v s).sr = s.sr := (rfl)
@[simp] theorem setStarted_transport (v : Bool) (s : State) : (setStarted v s).transport = s.transport := (rfl)
@[simp] theorem setStarted_chip (v : Bool) (s : State) : (setStarted v s).chip = s.chip := (rfl)
@[simp] theorem setStarted_now (v : Bool) (s : State) : (setStarted v s).now = s.now := (rfl)
@[simp] theorem setStarted_pwrenLowAt (v : Bool) (s : State) : (setStarted v s).pwrenLowAt = s.pwrenLowAt := (rfl)
@[simp] theorem setStarted_log (v : Bool) (s : State) : (setStarted v s).log = s.log := (rfl)
@[simp] theorem setStarted_answer (v : Bool) (s : State) : (setStarted v s).answer = s.answer := (rfl)
@[simp] theorem setStarted_sampled (v : Bool) (s : State) : (setStarted v s).sampled = s.sampled := (rfl)
@[simp] theorem setStarted_host (v : Bool) (s : State) : (setStarted v s).host = s.host := (rfl)
@[simp] theorem setStarted_inPhase (v : Bool) (s : State) : (setStarted v s).inPhase = s.inPhase := (rfl)
@[simp] theorem setStarted_slack (v : Bool) (s : State) : (setStarted v s).slack = s.slack := (rfl)
@[simp] theorem setStarted_draws (v : Bool) (s : State) : (setStarted v s).draws = s.draws := (rfl)

/-! ## setAddr -/

@[simp] theorem setAddr_params (a : Addr) (s : State) : (setAddr a s).params = s.params := (rfl)
@[simp] theorem setAddr_addr (a : Addr) (s : State) : (setAddr a s).addr = a := (rfl)
@[simp] theorem setAddr_wdata (a : Addr) (s : State) : (setAddr a s).wdata = s.wdata := (rfl)
@[simp] theorem setAddr_rdata (a : Addr) (s : State) : (setAddr a s).rdata = s.rdata := (rfl)
@[simp] theorem setAddr_seq (a : Addr) (s : State) : (setAddr a s).seq = s.seq := (rfl)
@[simp] theorem setAddr_started (a : Addr) (s : State) : (setAddr a s).started = s.started := (rfl)
@[simp] theorem setAddr_serial (a : Addr) (s : State) : (setAddr a s).serial = s.serial := (rfl)
@[simp] theorem setAddr_parallel (a : Addr) (s : State) : (setAddr a s).parallel = s.parallel := (rfl)
@[simp] theorem setAddr_sr (a : Addr) (s : State) : (setAddr a s).sr = s.sr := (rfl)
@[simp] theorem setAddr_transport (a : Addr) (s : State) : (setAddr a s).transport = s.transport := (rfl)
@[simp] theorem setAddr_chip (a : Addr) (s : State) : (setAddr a s).chip = s.chip := (rfl)
@[simp] theorem setAddr_now (a : Addr) (s : State) : (setAddr a s).now = s.now := (rfl)
@[simp] theorem setAddr_pwrenLowAt (a : Addr) (s : State) : (setAddr a s).pwrenLowAt = s.pwrenLowAt := (rfl)
@[simp] theorem setAddr_log (a : Addr) (s : State) : (setAddr a s).log = s.log := (rfl)
@[simp] theorem setAddr_answer (a : Addr) (s : State) : (setAddr a s).answer = s.answer := (rfl)
@[simp] theorem setAddr_sampled (a : Addr) (s : State) : (setAddr a s).sampled = s.sampled := (rfl)
@[simp] theorem setAddr_host (a : Addr) (s : State) : (setAddr a s).host = s.host := (rfl)
@[simp] theorem setAddr_inPhase (a : Addr) (s : State) : (setAddr a s).inPhase = s.inPhase := (rfl)
@[simp] theorem setAddr_slack (a : Addr) (s : State) : (setAddr a s).slack = s.slack := (rfl)
@[simp] theorem setAddr_draws (a : Addr) (s : State) : (setAddr a s).draws = s.draws := (rfl)

/-! ## setWdata -/

@[simp] theorem setWdata_params (x : Byte) (s : State) : (setWdata x s).params = s.params := (rfl)
@[simp] theorem setWdata_addr (x : Byte) (s : State) : (setWdata x s).addr = s.addr := (rfl)
@[simp] theorem setWdata_wdata (x : Byte) (s : State) : (setWdata x s).wdata = x := (rfl)
@[simp] theorem setWdata_rdata (x : Byte) (s : State) : (setWdata x s).rdata = s.rdata := (rfl)
@[simp] theorem setWdata_seq (x : Byte) (s : State) : (setWdata x s).seq = s.seq := (rfl)
@[simp] theorem setWdata_started (x : Byte) (s : State) : (setWdata x s).started = s.started := (rfl)
@[simp] theorem setWdata_serial (x : Byte) (s : State) : (setWdata x s).serial = s.serial := (rfl)
@[simp] theorem setWdata_parallel (x : Byte) (s : State) : (setWdata x s).parallel = s.parallel := (rfl)
@[simp] theorem setWdata_sr (x : Byte) (s : State) : (setWdata x s).sr = s.sr := (rfl)
@[simp] theorem setWdata_transport (x : Byte) (s : State) : (setWdata x s).transport = s.transport := (rfl)
@[simp] theorem setWdata_chip (x : Byte) (s : State) : (setWdata x s).chip = s.chip := (rfl)
@[simp] theorem setWdata_now (x : Byte) (s : State) : (setWdata x s).now = s.now := (rfl)
@[simp] theorem setWdata_pwrenLowAt (x : Byte) (s : State) : (setWdata x s).pwrenLowAt = s.pwrenLowAt := (rfl)
@[simp] theorem setWdata_log (x : Byte) (s : State) : (setWdata x s).log = s.log := (rfl)
@[simp] theorem setWdata_answer (x : Byte) (s : State) : (setWdata x s).answer = s.answer := (rfl)
@[simp] theorem setWdata_sampled (x : Byte) (s : State) : (setWdata x s).sampled = s.sampled := (rfl)
@[simp] theorem setWdata_host (x : Byte) (s : State) : (setWdata x s).host = s.host := (rfl)
@[simp] theorem setWdata_inPhase (x : Byte) (s : State) : (setWdata x s).inPhase = s.inPhase := (rfl)
@[simp] theorem setWdata_slack (x : Byte) (s : State) : (setWdata x s).slack = s.slack := (rfl)
@[simp] theorem setWdata_draws (x : Byte) (s : State) : (setWdata x s).draws = s.draws := (rfl)

/-! ## accept -/

@[simp] theorem accept_params (op : Op) (s : State) : (accept op s).params = s.params := (rfl)
@[simp] theorem accept_addr (op : Op) (s : State) : (accept op s).addr = s.addr := (rfl)
@[simp] theorem accept_wdata (op : Op) (s : State) : (accept op s).wdata = s.wdata := (rfl)
@[simp] theorem accept_rdata (op : Op) (s : State) : (accept op s).rdata = s.rdata := (rfl)
@[simp] theorem accept_seq (op : Op) (s : State) : (accept op s).seq = .running op 1 := (rfl)
@[simp] theorem accept_started (op : Op) (s : State) : (accept op s).started = s.started := (rfl)
@[simp] theorem accept_serial (op : Op) (s : State) : (accept op s).serial = s.serial := (rfl)
@[simp] theorem accept_parallel (op : Op) (s : State) : (accept op s).parallel = s.parallel := (rfl)
@[simp] theorem accept_sr (op : Op) (s : State) : (accept op s).sr = s.sr := (rfl)
@[simp] theorem accept_transport (op : Op) (s : State) : (accept op s).transport = s.transport := (rfl)
@[simp] theorem accept_chip (op : Op) (s : State) : (accept op s).chip = s.chip := (rfl)
@[simp] theorem accept_now (op : Op) (s : State) : (accept op s).now = s.now := (rfl)
@[simp] theorem accept_pwrenLowAt (op : Op) (s : State) : (accept op s).pwrenLowAt = s.pwrenLowAt := (rfl)
@[simp] theorem accept_log (op : Op) (s : State) : (accept op s).log = s.log := (rfl)
@[simp] theorem accept_answer (op : Op) (s : State) : (accept op s).answer = s.answer := (rfl)
@[simp] theorem accept_sampled (op : Op) (s : State) : (accept op s).sampled = s.sampled := (rfl)
@[simp] theorem accept_host (op : Op) (s : State) : (accept op s).host = s.host := (rfl)
@[simp] theorem accept_inPhase (op : Op) (s : State) : (accept op s).inPhase = s.resultsDefined := (rfl)
@[simp] theorem accept_slack (op : Op) (s : State) : (accept op s).slack = s.slack := (rfl)
@[simp] theorem accept_draws (op : Op) (s : State) : (accept op s).draws = s.draws := (rfl)

/-! ## atSeq -/

@[simp] theorem atSeq_params (q : Seq) (s : State) : (atSeq q s).params = s.params := (rfl)
@[simp] theorem atSeq_addr (q : Seq) (s : State) : (atSeq q s).addr = s.addr := (rfl)
@[simp] theorem atSeq_wdata (q : Seq) (s : State) : (atSeq q s).wdata = s.wdata := (rfl)
@[simp] theorem atSeq_rdata (q : Seq) (s : State) : (atSeq q s).rdata = s.rdata := (rfl)
@[simp] theorem atSeq_seq (q : Seq) (s : State) : (atSeq q s).seq = q := (rfl)
@[simp] theorem atSeq_started (q : Seq) (s : State) : (atSeq q s).started = s.started := (rfl)
@[simp] theorem atSeq_serial (q : Seq) (s : State) : (atSeq q s).serial = s.serial := (rfl)
@[simp] theorem atSeq_parallel (q : Seq) (s : State) : (atSeq q s).parallel = s.parallel := (rfl)
@[simp] theorem atSeq_sr (q : Seq) (s : State) : (atSeq q s).sr = s.sr := (rfl)
@[simp] theorem atSeq_transport (q : Seq) (s : State) : (atSeq q s).transport = s.transport := (rfl)
@[simp] theorem atSeq_chip (q : Seq) (s : State) : (atSeq q s).chip = s.chip := (rfl)
@[simp] theorem atSeq_now (q : Seq) (s : State) : (atSeq q s).now = s.now := (rfl)
@[simp] theorem atSeq_pwrenLowAt (q : Seq) (s : State) : (atSeq q s).pwrenLowAt = s.pwrenLowAt := (rfl)
@[simp] theorem atSeq_log (q : Seq) (s : State) : (atSeq q s).log = s.log := (rfl)
@[simp] theorem atSeq_answer (q : Seq) (s : State) : (atSeq q s).answer = s.answer := (rfl)
@[simp] theorem atSeq_sampled (q : Seq) (s : State) : (atSeq q s).sampled = s.sampled := (rfl)
@[simp] theorem atSeq_host (q : Seq) (s : State) : (atSeq q s).host = s.host := (rfl)
@[simp] theorem atSeq_inPhase (q : Seq) (s : State) : (atSeq q s).inPhase = s.inPhase := (rfl)
@[simp] theorem atSeq_slack (q : Seq) (s : State) : (atSeq q s).slack = s.slack := (rfl)
@[simp] theorem atSeq_draws (q : Seq) (s : State) : (atSeq q s).draws = s.draws := (rfl)

/-! ## placeCmd -/

@[simp] theorem placeCmd_params (w : CmdWord) (s : State) : (placeCmd w s).params = s.params := (rfl)
@[simp] theorem placeCmd_addr (w : CmdWord) (s : State) : (placeCmd w s).addr = s.addr := (rfl)
@[simp] theorem placeCmd_wdata (w : CmdWord) (s : State) : (placeCmd w s).wdata = s.wdata := (rfl)
@[simp] theorem placeCmd_rdata (w : CmdWord) (s : State) : (placeCmd w s).rdata = s.rdata := (rfl)
@[simp] theorem placeCmd_seq (w : CmdWord) (s : State) : (placeCmd w s).seq = .idle := (rfl)
@[simp] theorem placeCmd_started (w : CmdWord) (s : State) : (placeCmd w s).started = s.started := (rfl)
@[simp] theorem placeCmd_serial (w : CmdWord) (s : State) : (placeCmd w s).serial = s.serial := (rfl)
@[simp] theorem placeCmd_parallel (w : CmdWord) (s : State) : (placeCmd w s).parallel = s.parallel := (rfl)
@[simp] theorem placeCmd_sr (w : CmdWord) (s : State) : (placeCmd w s).sr = s.sr := (rfl)
@[simp] theorem placeCmd_transport (w : CmdWord) (s : State) : (placeCmd w s).transport = s.transport := (rfl)
@[simp] theorem placeCmd_chip (w : CmdWord) (s : State) : (placeCmd w s).chip = s.chip := (rfl)
@[simp] theorem placeCmd_now (w : CmdWord) (s : State) : (placeCmd w s).now = s.now := (rfl)
@[simp] theorem placeCmd_pwrenLowAt (w : CmdWord) (s : State) : (placeCmd w s).pwrenLowAt = s.pwrenLowAt := (rfl)
@[simp] theorem placeCmd_log (w : CmdWord) (s : State) : (placeCmd w s).log = s.log := (rfl)
@[simp] theorem placeCmd_answer (w : CmdWord) (s : State) : (placeCmd w s).answer = s.answer := (rfl)
@[simp] theorem placeCmd_sampled (w : CmdWord) (s : State) : (placeCmd w s).sampled = s.sampled := (rfl)
@[simp] theorem placeCmd_host (w : CmdWord) (s : State) : (placeCmd w s).host = w :: s.host.tail := (rfl)
@[simp] theorem placeCmd_inPhase (w : CmdWord) (s : State) : (placeCmd w s).inPhase = s.inPhase := (rfl)
@[simp] theorem placeCmd_slack (w : CmdWord) (s : State) : (placeCmd w s).slack = s.slack := (rfl)
@[simp] theorem placeCmd_draws (w : CmdWord) (s : State) : (placeCmd w s).draws = s.draws := (rfl)

end Sys2Proof.Machine
end

