-- ==== Sys2Proof/Laws/Encoding.lean ====
section
/-! SUPPORT. The command word's fields and the operands, bit by bit (spec/30_encoding.md R80, R88 to R91). -/

namespace Sys2Proof

/-- The bits of the packed word (R80). -/
theorem packCmd_getLsbD (c : BitVec 3) (a : Addr) (x : Byte) (i : Nat) : (packCmd c a x).getLsbD i =
    if i < 8 then x.getLsbD i
    else if i < 24 then a.getLsbD (i - 8)
    else if i < 27 then c.getLsbD (i - 24)
    else false := by
  have h1 := BitVec.getLsbD_append (x := 0#5 ++ c ++ a) (y := x) (i := i)
  have h2 := BitVec.getLsbD_append (x := 0#5 ++ c) (y := a) (i := i - 8)
  have h3 := BitVec.getLsbD_append (x := 0#5) (y := c) (i := i - 8 - 16)
  refine Eq.trans h1 ?_
  rw [h2, h3]
  by_cases ha : i < 8
  · simp [ha]
  · by_cases hb : i < 24
    · have : i - 8 < 16 := by omega
      simp [ha, hb, this]
    · have hb' : ¬ i - 8 < 16 := by omega
      by_cases hc : i < 27
      · have : i - 8 - 16 < 3 := by omega
        have he : i - 8 - 16 = i - 24 := by omega
        rw [if_neg ha, if_neg hb', if_neg ha, if_neg hb, if_pos hc, if_pos this, he]
      · have : ¬ i - 8 - 16 < 3 := by omega
        simp [ha, hb, hb', hc, this]

@[simp] theorem cmdZero_packCmd (c : BitVec 3) (a : Addr) (x : Byte) : cmdZero (packCmd c a x) = 0#5 := by
  apply BitVec.eq_of_getLsbD_eq
  intro i hi
  rw [cmdZero, BitVec.getLsbD_extractLsb', packCmd_getLsbD, if_neg (by omega), if_neg (by omega), if_neg (by omega)]
  simp

@[simp] theorem cmdOp_packCmd (c : BitVec 3) (a : Addr) (x : Byte) : cmdOp (packCmd c a x) = c := by
  apply BitVec.eq_of_getLsbD_eq
  intro i hi
  rw [cmdOp, BitVec.getLsbD_extractLsb', packCmd_getLsbD, if_neg (by omega), if_neg (by omega), if_pos (by omega)]
  simp [hi]

@[simp] theorem cmdAddress_packCmd (c : BitVec 3) (a : Addr) (x : Byte) : cmdAddress (packCmd c a x) = a := by
  apply BitVec.eq_of_getLsbD_eq
  intro i hi
  rw [cmdAddress, BitVec.getLsbD_extractLsb', packCmd_getLsbD, if_neg (by omega), if_pos (by omega)]
  simp [hi]

@[simp] theorem cmdValue_packCmd (c : BitVec 3) (a : Addr) (x : Byte) : cmdValue (packCmd c a x) = x := by
  apply BitVec.eq_of_getLsbD_eq
  intro i hi
  rw [cmdValue, BitVec.getLsbD_extractLsb', packCmd_getLsbD, if_pos (by omega)]
  simp [hi]

end Sys2Proof

namespace Sys2Proof.Machine

/-- The two bytes of an address make it up (R88): `{hi, lo} = ADDR`. -/
@[simp] theorem joinBytes_hi_lo (a : Addr) : joinBytes (hiByte a) (loByte a) = a := by
  apply BitVec.eq_of_getLsbD_eq
  intro i hi
  refine Eq.trans (BitVec.getLsbD_append (x := hiByte a) (y := loByte a) (i := i)) ?_
  by_cases h : i < 8
  · simp [h, loByte]
  · have h1 : i - 8 < 8 := by omega
    have h2 : 8 + (i - 8) = i := by omega
    simp [h, hiByte, h1, h2]

/-- Bit `i` of the value of a list of bits is its entry `i` (R91). -/
theorem bitsValue_testBit (g : List Bool) (i : Nat) : (bitsValue g).testBit i = g.getD i false := by
  induction g generalizing i with
  | nil => simp [bitsValue]
  | cons b g ih =>
    cases i with
    | zero => cases b <;> simp [bitsValue, Nat.testBit_zero]
    | succ n =>
      rw [List.getD_cons_succ, ← ih, Nat.testBit_succ]
      congr 1
      cases b <;> (simp [bitsValue]; try omega)

end Sys2Proof.Machine
end

