-- ==== Sys2Proof/Laws/Memory.lean ====
section
/-! SUPPORT. The EEPROM array: a read after a write, and every memory operation keeps the canonical form. -/

namespace Sys2Proof.Machine

theorem Memory.wf_cons {a : Nat} {v : Byte} {m : Memory} :
    Memory.wf ((a, v) :: m) = true ↔ v ≠ erasedByte ∧ (∀ c ∈ m, a < c.1) ∧ Memory.wf m = true := by
  simp [Memory.wf, and_assoc]

/-- An address below every listed one reads as erased. -/
theorem Memory.read_below : ∀ {m : Memory} {a : Nat}, (∀ c ∈ m, a < c.1) → Memory.read m a = erasedByte
  | [], _, _ => rfl
  | (b, w) :: m, a, h => by
    have hb : a < b := h (b, w) (by simp)
    simp only [Memory.read, if_neg (Nat.ne_of_lt hb)]
    exact Memory.read_below fun c hc => h c (by simp [hc])

/-- Every listed address of a written array was listed, or is the one written. -/
theorem Memory.mem_write : ∀ {m : Memory} {a : Nat} {v : Byte} {c : Host.Cell},
    c ∈ Memory.write m a v → c ∈ m ∨ (c = (a, v) ∧ v ≠ erasedByte)
  | [], a, v, c, h => by
    unfold Memory.write at h
    split at h
    · cases h
    · exact .inr ⟨by simpa using h, ‹_›⟩
  | (b, w) :: m, a, v, c, h => by
    unfold Memory.write at h
    split at h
    · split at h
      · exact .inl h
      · rcases List.mem_cons.1 h with h | h
        · exact .inr ⟨h, ‹_›⟩
        · exact .inl h
    · split at h
      · split at h
        · exact .inl (List.mem_cons_of_mem _ h)
        · rcases List.mem_cons.1 h with h | h
          · exact .inr ⟨h, ‹_›⟩
          · exact .inl (List.mem_cons_of_mem _ h)
      · rcases List.mem_cons.1 h with h | h
        · exact .inl (by simp [h])
        · exact (Memory.mem_write h).imp (List.mem_cons_of_mem _) id

theorem Memory.write_wf : ∀ {m : Memory} {a : Nat} {v : Byte}, Memory.wf m = true → Memory.wf (Memory.write m a v) = true
  | [], a, v, _ => by
    unfold Memory.write
    split
    · rfl
    · simp [Memory.wf, ‹¬ v = erasedByte›]
  | (b, w) :: m, a, v, h => by
    obtain ⟨hw, hb, hm⟩ := Memory.wf_cons.1 h
    unfold Memory.write
    split
    · split
      · exact h
      · refine Memory.wf_cons.2 ⟨‹_›, fun c hc => ?_, h⟩
        rcases List.mem_cons.1 hc with rfl | hc
        · assumption
        · exact Nat.lt_trans ‹a < b› (hb c hc)
    · split
      · subst a
        split
        · exact hm
        · exact Memory.wf_cons.2 ⟨‹_›, hb, hm⟩
      · refine Memory.wf_cons.2 ⟨hw, fun c hc => ?_, Memory.write_wf hm⟩
        rcases Memory.mem_write hc with hc | ⟨rfl, -⟩
        · exact hb c hc
        · show b < a
          omega

/-- A read of the cell just written gives the byte written. -/
theorem Memory.read_write_same : ∀ {m : Memory} {a : Nat} {v : Byte}, Memory.wf m = true →
    Memory.read (Memory.write m a v) a = v
  | [], a, v, _ => by
    unfold Memory.write
    split
    · exact (‹v = erasedByte›).symm
    · simp [Memory.read]
  | (b, w) :: m, a, v, h => by
    obtain ⟨-, hb, hm⟩ := Memory.wf_cons.1 h
    unfold Memory.write
    split
    · split
      · subst v
        refine Memory.read_below fun c hc => ?_
        rcases List.mem_cons.1 hc with rfl | hc
        · assumption
        · exact Nat.lt_trans ‹a < b› (hb c hc)
      · simp [Memory.read]
    · split
      · subst a
        split
        · subst v
          exact Memory.read_below hb
        · simp [Memory.read]
      · rw [Memory.read, if_neg ‹¬ a = b›]
        exact Memory.read_write_same hm

/-- A write leaves every other cell alone. -/
theorem Memory.read_write_other : ∀ {m : Memory} {a b : Nat} {v : Byte}, b ≠ a →
    Memory.read (Memory.write m a v) b = Memory.read m b
  | [], a, b, v, hne => by
    unfold Memory.write
    split
    · rfl
    · simp [Memory.read, hne]
  | (c, w) :: m, a, b, v, hne => by
    unfold Memory.write
    split
    · split
      · rfl
      · simp [Memory.read, hne]
    · split
      · subst a
        split
        · simp [Memory.read, hne]
        · simp [Memory.read, hne]
      · simp only [Memory.read]
        rw [Memory.read_write_other hne]

theorem Memory.within_iff {n : Nat} {m : Memory} : Memory.within n m = true ↔ ∀ c ∈ m, c.1 < n := by
  simp [Memory.within]

theorem Memory.write_within {n : Nat} {m : Memory} {a : Nat} {v : Byte} (h : Memory.within n m = true) (ha : a < n) :
    Memory.within n (Memory.write m a v) = true := by
  rw [Memory.within_iff] at *
  intro c hc
  rcases Memory.mem_write hc with hc | ⟨rfl, -⟩
  · exact h c hc
  · exact ha

theorem cell_lt (p : Params) (a : Addr) : cell p a < 2 ^ p.addrBits := Nat.mod_lt _ (Nat.two_pow_pos _)

/-- An array built from any list of cells is canonical, over the chip's cells. -/
theorem Memory.ofCells_ok (p : Params) (cells : List Host.Cell) :
    Memory.wf (Memory.ofCells p cells) = true ∧ Memory.within (2 ^ p.addrBits) (Memory.ofCells p cells) = true := by
  suffices h : ∀ m : Memory, Memory.wf m = true → Memory.within (2 ^ p.addrBits) m = true →
      Memory.wf (cells.foldl (fun m c => Memory.write m (c.1 % 2 ^ p.addrBits) c.2) m) = true
        ∧ Memory.within (2 ^ p.addrBits) (cells.foldl (fun m c => Memory.write m (c.1 % 2 ^ p.addrBits) c.2) m) = true from
    h [] rfl rfl
  induction cells with
  | nil => exact fun m h1 h2 => ⟨h1, h2⟩
  | cons c cs ih =>
    exact fun m h1 h2 => ih _ (Memory.write_wf h1) (Memory.write_within h2 (Nat.mod_lt _ (Nat.two_pow_pos _)))

theorem memRead_memWrite_same {s : State} {a b : Addr} {v : Byte} (h : Memory.wf s.chip.mem = true)
    (hab : cell s.params b = cell s.params a) : (s.memWrite a v).memRead b = v := by
  simp only [State.memRead, memWrite_params, memWrite_chip, hab]
  exact Memory.read_write_same h

theorem memRead_memWrite_other {s : State} {a b : Addr} {v : Byte}
    (hab : cell s.params b ≠ cell s.params a) : (s.memWrite a v).memRead b = s.memRead b := by
  simp only [State.memRead, memWrite_params, memWrite_chip]
  exact Memory.read_write_other hab

end Sys2Proof.Machine
end

