-- ==== Sys2Proof/Laws/Ops.lean ====
section
/-! SUPPORT. What each reaction and each micro-operation can do: for each a frame lemma (which fields it can change), one lemma
per field that it keeps, and what it does to the fields it changes. -/

namespace Sys2Proof.Machine

/-! ## Line registers -/

@[simp] theorem SerialLines.get_set (b : SerialLines) (l : SLine) (r : LineReg) : (b.set l r).get l = r := by
  cases l <;> rfl

theorem SerialLines.get_set_ne (b : SerialLines) {l m : SLine} (r : LineReg) (h : m ≠ l) : (b.set l r).get m = b.get m := by
  cases l <;> cases m <;> first | rfl | exact absurd rfl h

@[simp] theorem ParallelLines.get_set (b : ParallelLines) (l : PLine) (r : LineReg) : (b.set l r).get l = r := by
  cases l <;> rfl

theorem ParallelLines.get_set_ne (b : ParallelLines) {l m : PLine} (r : LineReg) (h : m ≠ l) :
    (b.set l r).get m = b.get m := by
  cases l <;> cases m <;> first | rfl | exact absurd rfl h

/-! ## Reactions -/

/-- What `SHCLK` can change (R176). -/
theorem clockShift_frame (a b : LineReg) (s : State) :
    s.clockShift a b = { s with sr := (s.clockShift a b).sr, draws := (s.clockShift a b).draws } := by
  unfold State.clockShift
  repeat' split
  all_goals rfl

@[simp] theorem clockShift_params (a b : LineReg) (s : State) : (s.clockShift a b).params = s.params := by rw [clockShift_frame]
@[simp] theorem clockShift_addr (a b : LineReg) (s : State) : (s.clockShift a b).addr = s.addr := by rw [clockShift_frame]
@[simp] theorem clockShift_wdata (a b : LineReg) (s : State) : (s.clockShift a b).wdata = s.wdata := by rw [clockShift_frame]
@[simp] theorem clockShift_rdata (a b : LineReg) (s : State) : (s.clockShift a b).rdata = s.rdata := by rw [clockShift_frame]
@[simp] theorem clockShift_seq (a b : LineReg) (s : State) : (s.clockShift a b).seq = s.seq := by rw [clockShift_frame]
@[simp] theorem clockShift_started (a b : LineReg) (s : State) : (s.clockShift a b).started = s.started := by rw [clockShift_frame]
@[simp] theorem clockShift_serial (a b : LineReg) (s : State) : (s.clockShift a b).serial = s.serial := by rw [clockShift_frame]
@[simp] theorem clockShift_parallel (a b : LineReg) (s : State) : (s.clockShift a b).parallel = s.parallel := by rw [clockShift_frame]
@[simp] theorem clockShift_transport (a b : LineReg) (s : State) : (s.clockShift a b).transport = s.transport := by rw [clockShift_frame]
@[simp] theorem clockShift_chip (a b : LineReg) (s : State) : (s.clockShift a b).chip = s.chip := by rw [clockShift_frame]
@[simp] theorem clockShift_now (a b : LineReg) (s : State) : (s.clockShift a b).now = s.now := by rw [clockShift_frame]
@[simp] theorem clockShift_pwrenLowAt (a b : LineReg) (s : State) : (s.clockShift a b).pwrenLowAt = s.pwrenLowAt := by rw [clockShift_frame]
@[simp] theorem clockShift_log (a b : LineReg) (s : State) : (s.clockShift a b).log = s.log := by rw [clockShift_frame]
@[simp] theorem clockShift_answer (a b : LineReg) (s : State) : (s.clockShift a b).answer = s.answer := by rw [clockShift_frame]
@[simp] theorem clockShift_sampled (a b : LineReg) (s : State) : (s.clockShift a b).sampled = s.sampled := by rw [clockShift_frame]
@[simp] theorem clockShift_host (a b : LineReg) (s : State) : (s.clockShift a b).host = s.host := by rw [clockShift_frame]
@[simp] theorem clockShift_inPhase (a b : LineReg) (s : State) : (s.clockShift a b).inPhase = s.inPhase := by rw [clockShift_frame]
@[simp] theorem clockShift_slack (a b : LineReg) (s : State) : (s.clockShift a b).slack = s.slack := by rw [clockShift_frame]

/-- What the end of a write pulse can change (R66). -/
theorem endPulse_frame (c : Bool) (s : State) :
    s.endPulse c = { s with chip := (s.endPulse c).chip, draws := (s.endPulse c).draws } := by
  unfold State.endPulse; split <;> rfl

@[simp] theorem endPulse_params (c : Bool) (s : State) : (s.endPulse c).params = s.params := by rw [endPulse_frame]
@[simp] theorem endPulse_addr (c : Bool) (s : State) : (s.endPulse c).addr = s.addr := by rw [endPulse_frame]
@[simp] theorem endPulse_wdata (c : Bool) (s : State) : (s.endPulse c).wdata = s.wdata := by rw [endPulse_frame]
@[simp] theorem endPulse_rdata (c : Bool) (s : State) : (s.endPulse c).rdata = s.rdata := by rw [endPulse_frame]
@[simp] theorem endPulse_seq (c : Bool) (s : State) : (s.endPulse c).seq = s.seq := by rw [endPulse_frame]
@[simp] theorem endPulse_started (c : Bool) (s : State) : (s.endPulse c).started = s.started := by rw [endPulse_frame]
@[simp] theorem endPulse_serial (c : Bool) (s : State) : (s.endPulse c).serial = s.serial := by rw [endPulse_frame]
@[simp] theorem endPulse_parallel (c : Bool) (s : State) : (s.endPulse c).parallel = s.parallel := by rw [endPulse_frame]
@[simp] theorem endPulse_sr (c : Bool) (s : State) : (s.endPulse c).sr = s.sr := by rw [endPulse_frame]
@[simp] theorem endPulse_transport (c : Bool) (s : State) : (s.endPulse c).transport = s.transport := by rw [endPulse_frame]
@[simp] theorem endPulse_now (c : Bool) (s : State) : (s.endPulse c).now = s.now := by rw [endPulse_frame]
@[simp] theorem endPulse_pwrenLowAt (c : Bool) (s : State) : (s.endPulse c).pwrenLowAt = s.pwrenLowAt := by rw [endPulse_frame]
@[simp] theorem endPulse_log (c : Bool) (s : State) : (s.endPulse c).log = s.log := by rw [endPulse_frame]
@[simp] theorem endPulse_answer (c : Bool) (s : State) : (s.endPulse c).answer = s.answer := by rw [endPulse_frame]
@[simp] theorem endPulse_sampled (c : Bool) (s : State) : (s.endPulse c).sampled = s.sampled := by rw [endPulse_frame]
@[simp] theorem endPulse_host (c : Bool) (s : State) : (s.endPulse c).host = s.host := by rw [endPulse_frame]
@[simp] theorem endPulse_inPhase (c : Bool) (s : State) : (s.endPulse c).inPhase = s.inPhase := by rw [endPulse_frame]
@[simp] theorem endPulse_slack (c : Bool) (s : State) : (s.endPulse c).slack = s.slack := by rw [endPulse_frame]

/-- What `WE` can change (R66). -/
theorem clockWrite_frame (a b : Level) (s : State) :
    s.clockWrite a b = { s with chip := (s.clockWrite a b).chip, draws := (s.clockWrite a b).draws } := by
  unfold State.clockWrite
  repeat' split
  all_goals first | rfl | (rw [endPulse_frame]; rfl)

@[simp] theorem clockWrite_params (a b : Level) (s : State) : (s.clockWrite a b).params = s.params := by rw [clockWrite_frame]
@[simp] theorem clockWrite_addr (a b : Level) (s : State) : (s.clockWrite a b).addr = s.addr := by rw [clockWrite_frame]
@[simp] theorem clockWrite_wdata (a b : Level) (s : State) : (s.clockWrite a b).wdata = s.wdata := by rw [clockWrite_frame]
@[simp] theorem clockWrite_rdata (a b : Level) (s : State) : (s.clockWrite a b).rdata = s.rdata := by rw [clockWrite_frame]
@[simp] theorem clockWrite_seq (a b : Level) (s : State) : (s.clockWrite a b).seq = s.seq := by rw [clockWrite_frame]
@[simp] theorem clockWrite_started (a b : Level) (s : State) : (s.clockWrite a b).started = s.started := by rw [clockWrite_frame]
@[simp] theorem clockWrite_serial (a b : Level) (s : State) : (s.clockWrite a b).serial = s.serial := by rw [clockWrite_frame]
@[simp] theorem clockWrite_parallel (a b : Level) (s : State) : (s.clockWrite a b).parallel = s.parallel := by rw [clockWrite_frame]
@[simp] theorem clockWrite_sr (a b : Level) (s : State) : (s.clockWrite a b).sr = s.sr := by rw [clockWrite_frame]
@[simp] theorem clockWrite_transport (a b : Level) (s : State) : (s.clockWrite a b).transport = s.transport := by rw [clockWrite_frame]
@[simp] theorem clockWrite_now (a b : Level) (s : State) : (s.clockWrite a b).now = s.now := by rw [clockWrite_frame]
@[simp] theorem clockWrite_pwrenLowAt (a b : Level) (s : State) : (s.clockWrite a b).pwrenLowAt = s.pwrenLowAt := by rw [clockWrite_frame]
@[simp] theorem clockWrite_log (a b : Level) (s : State) : (s.clockWrite a b).log = s.log := by rw [clockWrite_frame]
@[simp] theorem clockWrite_answer (a b : Level) (s : State) : (s.clockWrite a b).answer = s.answer := by rw [clockWrite_frame]
@[simp] theorem clockWrite_sampled (a b : Level) (s : State) : (s.clockWrite a b).sampled = s.sampled := by rw [clockWrite_frame]
@[simp] theorem clockWrite_host (a b : Level) (s : State) : (s.clockWrite a b).host = s.host := by rw [clockWrite_frame]
@[simp] theorem clockWrite_inPhase (a b : Level) (s : State) : (s.clockWrite a b).inPhase = s.inPhase := by rw [clockWrite_frame]
@[simp] theorem clockWrite_slack (a b : Level) (s : State) : (s.clockWrite a b).slack = s.slack := by rw [clockWrite_frame]

/-- What the power line can change (R64, R203). -/
theorem powerChange_frame (a b : Bool) (n : Nat) (s : State) :
    s.powerChange a b n = { s with chip := (s.powerChange a b n).chip, draws := (s.powerChange a b n).draws } := by
  cases a <;> cases b <;> rfl

@[simp] theorem powerChange_params (a b : Bool) (n : Nat) (s : State) : (s.powerChange a b n).params = s.params := by rw [powerChange_frame]
@[simp] theorem powerChange_addr (a b : Bool) (n : Nat) (s : State) : (s.powerChange a b n).addr = s.addr := by rw [powerChange_frame]
@[simp] theorem powerChange_wdata (a b : Bool) (n : Nat) (s : State) : (s.powerChange a b n).wdata = s.wdata := by rw [powerChange_frame]
@[simp] theorem powerChange_rdata (a b : Bool) (n : Nat) (s : State) : (s.powerChange a b n).rdata = s.rdata := by rw [powerChange_frame]
@[simp] theorem powerChange_seq (a b : Bool) (n : Nat) (s : State) : (s.powerChange a b n).seq = s.seq := by rw [powerChange_frame]
@[simp] theorem powerChange_started (a b : Bool) (n : Nat) (s : State) : (s.powerChange a b n).started = s.started := by rw [powerChange_frame]
@[simp] theorem powerChange_serial (a b : Bool) (n : Nat) (s : State) : (s.powerChange a b n).serial = s.serial := by rw [powerChange_frame]
@[simp] theorem powerChange_parallel (a b : Bool) (n : Nat) (s : State) : (s.powerChange a b n).parallel = s.parallel := by rw [powerChange_frame]
@[simp] theorem powerChange_sr (a b : Bool) (n : Nat) (s : State) : (s.powerChange a b n).sr = s.sr := by rw [powerChange_frame]
@[simp] theorem powerChange_transport (a b : Bool) (n : Nat) (s : State) : (s.powerChange a b n).transport = s.transport := by rw [powerChange_frame]
@[simp] theorem powerChange_now (a b : Bool) (n : Nat) (s : State) : (s.powerChange a b n).now = s.now := by rw [powerChange_frame]
@[simp] theorem powerChange_pwrenLowAt (a b : Bool) (n : Nat) (s : State) : (s.powerChange a b n).pwrenLowAt = s.pwrenLowAt := by rw [powerChange_frame]
@[simp] theorem powerChange_log (a b : Bool) (n : Nat) (s : State) : (s.powerChange a b n).log = s.log := by rw [powerChange_frame]
@[simp] theorem powerChange_answer (a b : Bool) (n : Nat) (s : State) : (s.powerChange a b n).answer = s.answer := by rw [powerChange_frame]
@[simp] theorem powerChange_sampled (a b : Bool) (n : Nat) (s : State) : (s.powerChange a b n).sampled = s.sampled := by rw [powerChange_frame]
@[simp] theorem powerChange_host (a b : Bool) (n : Nat) (s : State) : (s.powerChange a b n).host = s.host := by rw [powerChange_frame]
@[simp] theorem powerChange_inPhase (a b : Bool) (n : Nat) (s : State) : (s.powerChange a b n).inPhase = s.inPhase := by rw [powerChange_frame]
@[simp] theorem powerChange_slack (a b : Bool) (n : Nat) (s : State) : (s.powerChange a b n).slack = s.slack := by rw [powerChange_frame]

/-- What writing a serial line can change (R123). -/
theorem putSerial_frame (l : SLine) (r : LineReg) (s : State) :
    s.putSerial l r = { s with serial := (s.putSerial l r).serial, chip := (s.putSerial l r).chip, draws := (s.putSerial l r).draws } := by
  unfold State.putSerial; simp only []; rw [powerChange_frame]

@[simp] theorem putSerial_params (l : SLine) (r : LineReg) (s : State) : (s.putSerial l r).params = s.params := by rw [putSerial_frame]
@[simp] theorem putSerial_addr (l : SLine) (r : LineReg) (s : State) : (s.putSerial l r).addr = s.addr := by rw [putSerial_frame]
@[simp] theorem putSerial_wdata (l : SLine) (r : LineReg) (s : State) : (s.putSerial l r).wdata = s.wdata := by rw [putSerial_frame]
@[simp] theorem putSerial_rdata (l : SLine) (r : LineReg) (s : State) : (s.putSerial l r).rdata = s.rdata := by rw [putSerial_frame]
@[simp] theorem putSerial_seq (l : SLine) (r : LineReg) (s : State) : (s.putSerial l r).seq = s.seq := by rw [putSerial_frame]
@[simp] theorem putSerial_started (l : SLine) (r : LineReg) (s : State) : (s.putSerial l r).started = s.started := by rw [putSerial_frame]
@[simp] theorem putSerial_parallel (l : SLine) (r : LineReg) (s : State) : (s.putSerial l r).parallel = s.parallel := by rw [putSerial_frame]
@[simp] theorem putSerial_sr (l : SLine) (r : LineReg) (s : State) : (s.putSerial l r).sr = s.sr := by rw [putSerial_frame]
@[simp] theorem putSerial_transport (l : SLine) (r : LineReg) (s : State) : (s.putSerial l r).transport = s.transport := by rw [putSerial_frame]
@[simp] theorem putSerial_now (l : SLine) (r : LineReg) (s : State) : (s.putSerial l r).now = s.now := by rw [putSerial_frame]
@[simp] theorem putSerial_pwrenLowAt (l : SLine) (r : LineReg) (s : State) : (s.putSerial l r).pwrenLowAt = s.pwrenLowAt := by rw [putSerial_frame]
@[simp] theorem putSerial_log (l : SLine) (r : LineReg) (s : State) : (s.putSerial l r).log = s.log := by rw [putSerial_frame]
@[simp] theorem putSerial_answer (l : SLine) (r : LineReg) (s : State) : (s.putSerial l r).answer = s.answer := by rw [putSerial_frame]
@[simp] theorem putSerial_sampled (l : SLine) (r : LineReg) (s : State) : (s.putSerial l r).sampled = s.sampled := by rw [putSerial_frame]
@[simp] theorem putSerial_host (l : SLine) (r : LineReg) (s : State) : (s.putSerial l r).host = s.host := by rw [putSerial_frame]
@[simp] theorem putSerial_inPhase (l : SLine) (r : LineReg) (s : State) : (s.putSerial l r).inPhase = s.inPhase := by rw [putSerial_frame]
@[simp] theorem putSerial_slack (l : SLine) (r : LineReg) (s : State) : (s.putSerial l r).slack = s.slack := by rw [putSerial_frame]

/-- What writing a parallel line can change (R123). -/
theorem putParallel_frame (l : PLine) (r : LineReg) (s : State) :
    s.putParallel l r = { s with parallel := (s.putParallel l r).parallel, sr := (s.putParallel l r).sr, chip := (s.putParallel l r).chip, pwrenLowAt := (s.putParallel l r).pwrenLowAt, draws := (s.putParallel l r).draws } := by
  cases l <;> simp only [State.putParallel] <;> first | rfl | rw [clockShift_frame] | rw [clockWrite_frame] | rw [powerChange_frame]

@[simp] theorem putParallel_params (l : PLine) (r : LineReg) (s : State) : (s.putParallel l r).params = s.params := by rw [putParallel_frame]
@[simp] theorem putParallel_addr (l : PLine) (r : LineReg) (s : State) : (s.putParallel l r).addr = s.addr := by rw [putParallel_frame]
@[simp] theorem putParallel_wdata (l : PLine) (r : LineReg) (s : State) : (s.putParallel l r).wdata = s.wdata := by rw [putParallel_frame]
@[simp] theorem putParallel_rdata (l : PLine) (r : LineReg) (s : State) : (s.putParallel l r).rdata = s.rdata := by rw [putParallel_frame]
@[simp] theorem putParallel_seq (l : PLine) (r : LineReg) (s : State) : (s.putParallel l r).seq = s.seq := by rw [putParallel_frame]
@[simp] theorem putParallel_started (l : PLine) (r : LineReg) (s : State) : (s.putParallel l r).started = s.started := by rw [putParallel_frame]
@[simp] theorem putParallel_serial (l : PLine) (r : LineReg) (s : State) : (s.putParallel l r).serial = s.serial := by rw [putParallel_frame]
@[simp] theorem putParallel_transport (l : PLine) (r : LineReg) (s : State) : (s.putParallel l r).transport = s.transport := by rw [putParallel_frame]
@[simp] theorem putParallel_now (l : PLine) (r : LineReg) (s : State) : (s.putParallel l r).now = s.now := by rw [putParallel_frame]
@[simp] theorem putParallel_log (l : PLine) (r : LineReg) (s : State) : (s.putParallel l r).log = s.log := by rw [putParallel_frame]
@[simp] theorem putParallel_answer (l : PLine) (r : LineReg) (s : State) : (s.putParallel l r).answer = s.answer := by rw [putParallel_frame]
@[simp] theorem putParallel_sampled (l : PLine) (r : LineReg) (s : State) : (s.putParallel l r).sampled = s.sampled := by rw [putParallel_frame]
@[simp] theorem putParallel_host (l : PLine) (r : LineReg) (s : State) : (s.putParallel l r).host = s.host := by rw [putParallel_frame]
@[simp] theorem putParallel_inPhase (l : PLine) (r : LineReg) (s : State) : (s.putParallel l r).inPhase = s.inPhase := by rw [putParallel_frame]
@[simp] theorem putParallel_slack (l : PLine) (r : LineReg) (s : State) : (s.putParallel l r).slack = s.slack := by rw [putParallel_frame]

/-! ## Micro-operations: what each can change -/

/-- What `PinMode` on a parallel line can change (R110, R123). -/
theorem pinModePar_frame (l : PLine) (d : Dir) (s : State) :
    pinMode (.par l) d s = { s with parallel := (pinMode (.par l) d s).parallel, sr := (pinMode (.par l) d s).sr, chip := (pinMode (.par l) d s).chip, pwrenLowAt := (pinMode (.par l) d s).pwrenLowAt, draws := (pinMode (.par l) d s).draws, log := (pinMode (.par l) d s).log, now := (pinMode (.par l) d s).now, slack := (pinMode (.par l) d s).slack } := by
  unfold pinMode; simp only [State.putLine]; rw [putParallel_frame]; rfl

@[simp] theorem pinModePar_params (l : PLine) (d : Dir) (s : State) : (pinMode (.par l) d s).params = s.params := by rw [pinModePar_frame]
@[simp] theorem pinModePar_addr (l : PLine) (d : Dir) (s : State) : (pinMode (.par l) d s).addr = s.addr := by rw [pinModePar_frame]
@[simp] theorem pinModePar_wdata (l : PLine) (d : Dir) (s : State) : (pinMode (.par l) d s).wdata = s.wdata := by rw [pinModePar_frame]
@[simp] theorem pinModePar_rdata (l : PLine) (d : Dir) (s : State) : (pinMode (.par l) d s).rdata = s.rdata := by rw [pinModePar_frame]
@[simp] theorem pinModePar_seq (l : PLine) (d : Dir) (s : State) : (pinMode (.par l) d s).seq = s.seq := by rw [pinModePar_frame]
@[simp] theorem pinModePar_started (l : PLine) (d : Dir) (s : State) : (pinMode (.par l) d s).started = s.started := by rw [pinModePar_frame]
@[simp] theorem pinModePar_serial (l : PLine) (d : Dir) (s : State) : (pinMode (.par l) d s).serial = s.serial := by rw [pinModePar_frame]
@[simp] theorem pinModePar_transport (l : PLine) (d : Dir) (s : State) : (pinMode (.par l) d s).transport = s.transport := by rw [pinModePar_frame]
@[simp] theorem pinModePar_answer (l : PLine) (d : Dir) (s : State) : (pinMode (.par l) d s).answer = s.answer := by rw [pinModePar_frame]
@[simp] theorem pinModePar_sampled (l : PLine) (d : Dir) (s : State) : (pinMode (.par l) d s).sampled = s.sampled := by rw [pinModePar_frame]
@[simp] theorem pinModePar_host (l : PLine) (d : Dir) (s : State) : (pinMode (.par l) d s).host = s.host := by rw [pinModePar_frame]
@[simp] theorem pinModePar_inPhase (l : PLine) (d : Dir) (s : State) : (pinMode (.par l) d s).inPhase = s.inPhase := by rw [pinModePar_frame]

/-- What `PinSet` on a parallel line can change (R111, R123). -/
theorem pinSetPar_frame (l : PLine) (v : Bool) (s : State) :
    pinSet (.par l) v s = { s with parallel := (pinSet (.par l) v s).parallel, sr := (pinSet (.par l) v s).sr, chip := (pinSet (.par l) v s).chip, pwrenLowAt := (pinSet (.par l) v s).pwrenLowAt, draws := (pinSet (.par l) v s).draws, log := (pinSet (.par l) v s).log, now := (pinSet (.par l) v s).now, slack := (pinSet (.par l) v s).slack } := by
  unfold pinSet; simp only [State.putLine]; rw [putParallel_frame]; rfl

@[simp] theorem pinSetPar_params (l : PLine) (v : Bool) (s : State) : (pinSet (.par l) v s).params = s.params := by rw [pinSetPar_frame]
@[simp] theorem pinSetPar_addr (l : PLine) (v : Bool) (s : State) : (pinSet (.par l) v s).addr = s.addr := by rw [pinSetPar_frame]
@[simp] theorem pinSetPar_wdata (l : PLine) (v : Bool) (s : State) : (pinSet (.par l) v s).wdata = s.wdata := by rw [pinSetPar_frame]
@[simp] theorem pinSetPar_rdata (l : PLine) (v : Bool) (s : State) : (pinSet (.par l) v s).rdata = s.rdata := by rw [pinSetPar_frame]
@[simp] theorem pinSetPar_seq (l : PLine) (v : Bool) (s : State) : (pinSet (.par l) v s).seq = s.seq := by rw [pinSetPar_frame]
@[simp] theorem pinSetPar_started (l : PLine) (v : Bool) (s : State) : (pinSet (.par l) v s).started = s.started := by rw [pinSetPar_frame]
@[simp] theorem pinSetPar_serial (l : PLine) (v : Bool) (s : State) : (pinSet (.par l) v s).serial = s.serial := by rw [pinSetPar_frame]
@[simp] theorem pinSetPar_transport (l : PLine) (v : Bool) (s : State) : (pinSet (.par l) v s).transport = s.transport := by rw [pinSetPar_frame]
@[simp] theorem pinSetPar_answer (l : PLine) (v : Bool) (s : State) : (pinSet (.par l) v s).answer = s.answer := by rw [pinSetPar_frame]
@[simp] theorem pinSetPar_sampled (l : PLine) (v : Bool) (s : State) : (pinSet (.par l) v s).sampled = s.sampled := by rw [pinSetPar_frame]
@[simp] theorem pinSetPar_host (l : PLine) (v : Bool) (s : State) : (pinSet (.par l) v s).host = s.host := by rw [pinSetPar_frame]
@[simp] theorem pinSetPar_inPhase (l : PLine) (v : Bool) (s : State) : (pinSet (.par l) v s).inPhase = s.inPhase := by rw [pinSetPar_frame]

/-- What `PinMode` on a serial line can change (R110, R123). -/
theorem pinModeSer_frame (l : SLine) (d : Dir) (s : State) :
    pinMode (.ser l) d s = { s with serial := (pinMode (.ser l) d s).serial, chip := (pinMode (.ser l) d s).chip, draws := (pinMode (.ser l) d s).draws, log := (pinMode (.ser l) d s).log, now := (pinMode (.ser l) d s).now, slack := (pinMode (.ser l) d s).slack } := by
  unfold pinMode; simp only [State.putLine]; rw [putSerial_frame]; rfl

@[simp] theorem pinModeSer_params (l : SLine) (d : Dir) (s : State) : (pinMode (.ser l) d s).params = s.params := by rw [pinModeSer_frame]
@[simp] theorem pinModeSer_addr (l : SLine) (d : Dir) (s : State) : (pinMode (.ser l) d s).addr = s.addr := by rw [pinModeSer_frame]
@[simp] theorem pinModeSer_wdata (l : SLine) (d : Dir) (s : State) : (pinMode (.ser l) d s).wdata = s.wdata := by rw [pinModeSer_frame]
@[simp] theorem pinModeSer_rdata (l : SLine) (d : Dir) (s : State) : (pinMode (.ser l) d s).rdata = s.rdata := by rw [pinModeSer_frame]
@[simp] theorem pinModeSer_seq (l : SLine) (d : Dir) (s : State) : (pinMode (.ser l) d s).seq = s.seq := by rw [pinModeSer_frame]
@[simp] theorem pinModeSer_started (l : SLine) (d : Dir) (s : State) : (pinMode (.ser l) d s).started = s.started := by rw [pinModeSer_frame]
@[simp] theorem pinModeSer_parallel (l : SLine) (d : Dir) (s : State) : (pinMode (.ser l) d s).parallel = s.parallel := by rw [pinModeSer_frame]
@[simp] theorem pinModeSer_sr (l : SLine) (d : Dir) (s : State) : (pinMode (.ser l) d s).sr = s.sr := by rw [pinModeSer_frame]
@[simp] theorem pinModeSer_transport (l : SLine) (d : Dir) (s : State) : (pinMode (.ser l) d s).transport = s.transport := by rw [pinModeSer_frame]
@[simp] theorem pinModeSer_pwrenLowAt (l : SLine) (d : Dir) (s : State) : (pinMode (.ser l) d s).pwrenLowAt = s.pwrenLowAt := by rw [pinModeSer_frame]
@[simp] theorem pinModeSer_answer (l : SLine) (d : Dir) (s : State) : (pinMode (.ser l) d s).answer = s.answer := by rw [pinModeSer_frame]
@[simp] theorem pinModeSer_sampled (l : SLine) (d : Dir) (s : State) : (pinMode (.ser l) d s).sampled = s.sampled := by rw [pinModeSer_frame]
@[simp] theorem pinModeSer_host (l : SLine) (d : Dir) (s : State) : (pinMode (.ser l) d s).host = s.host := by rw [pinModeSer_frame]
@[simp] theorem pinModeSer_inPhase (l : SLine) (d : Dir) (s : State) : (pinMode (.ser l) d s).inPhase = s.inPhase := by rw [pinModeSer_frame]

/-- What `PinSet` on a serial line can change (R111, R123). -/
theorem pinSetSer_frame (l : SLine) (v : Bool) (s : State) :
    pinSet (.ser l) v s = { s with serial := (pinSet (.ser l) v s).serial, chip := (pinSet (.ser l) v s).chip, draws := (pinSet (.ser l) v s).draws, log := (pinSet (.ser l) v s).log, now := (pinSet (.ser l) v s).now, slack := (pinSet (.ser l) v s).slack } := by
  unfold pinSet; simp only [State.putLine]; rw [putSerial_frame]; rfl

@[simp] theorem pinSetSer_params (l : SLine) (v : Bool) (s : State) : (pinSet (.ser l) v s).params = s.params := by rw [pinSetSer_frame]
@[simp] theorem pinSetSer_addr (l : SLine) (v : Bool) (s : State) : (pinSet (.ser l) v s).addr = s.addr := by rw [pinSetSer_frame]
@[simp] theorem pinSetSer_wdata (l : SLine) (v : Bool) (s : State) : (pinSet (.ser l) v s).wdata = s.wdata := by rw [pinSetSer_frame]
@[simp] theorem pinSetSer_rdata (l : SLine) (v : Bool) (s : State) : (pinSet (.ser l) v s).rdata = s.rdata := by rw [pinSetSer_frame]
@[simp] theorem pinSetSer_seq (l : SLine) (v : Bool) (s : State) : (pinSet (.ser l) v s).seq = s.seq := by rw [pinSetSer_frame]
@[simp] theorem pinSetSer_started (l : SLine) (v : Bool) (s : State) : (pinSet (.ser l) v s).started = s.started := by rw [pinSetSer_frame]
@[simp] theorem pinSetSer_parallel (l : SLine) (v : Bool) (s : State) : (pinSet (.ser l) v s).parallel = s.parallel := by rw [pinSetSer_frame]
@[simp] theorem pinSetSer_sr (l : SLine) (v : Bool) (s : State) : (pinSet (.ser l) v s).sr = s.sr := by rw [pinSetSer_frame]
@[simp] theorem pinSetSer_transport (l : SLine) (v : Bool) (s : State) : (pinSet (.ser l) v s).transport = s.transport := by rw [pinSetSer_frame]
@[simp] theorem pinSetSer_pwrenLowAt (l : SLine) (v : Bool) (s : State) : (pinSet (.ser l) v s).pwrenLowAt = s.pwrenLowAt := by rw [pinSetSer_frame]
@[simp] theorem pinSetSer_answer (l : SLine) (v : Bool) (s : State) : (pinSet (.ser l) v s).answer = s.answer := by rw [pinSetSer_frame]
@[simp] theorem pinSetSer_sampled (l : SLine) (v : Bool) (s : State) : (pinSet (.ser l) v s).sampled = s.sampled := by rw [pinSetSer_frame]
@[simp] theorem pinSetSer_host (l : SLine) (v : Bool) (s : State) : (pinSet (.ser l) v s).host = s.host := by rw [pinSetSer_frame]
@[simp] theorem pinSetSer_inPhase (l : SLine) (v : Bool) (s : State) : (pinSet (.ser l) v s).inPhase = s.inPhase := by rw [pinSetSer_frame]

/-- What `PinGet` can change (R112): no state of the block. -/
theorem pinGet_frame (l : Line) (s : State) :
    pinGet l s = { s with sampled := (pinGet l s).sampled, draws := (pinGet l s).draws, log := (pinGet l s).log, now := (pinGet l s).now, slack := (pinGet l s).slack } := by
  rfl

@[simp] theorem pinGet_params (l : Line) (s : State) : (pinGet l s).params = s.params := by rw [pinGet_frame]
@[simp] theorem pinGet_addr (l : Line) (s : State) : (pinGet l s).addr = s.addr := by rw [pinGet_frame]
@[simp] theorem pinGet_wdata (l : Line) (s : State) : (pinGet l s).wdata = s.wdata := by rw [pinGet_frame]
@[simp] theorem pinGet_rdata (l : Line) (s : State) : (pinGet l s).rdata = s.rdata := by rw [pinGet_frame]
@[simp] theorem pinGet_seq (l : Line) (s : State) : (pinGet l s).seq = s.seq := by rw [pinGet_frame]
@[simp] theorem pinGet_started (l : Line) (s : State) : (pinGet l s).started = s.started := by rw [pinGet_frame]
@[simp] theorem pinGet_serial (l : Line) (s : State) : (pinGet l s).serial = s.serial := by rw [pinGet_frame]
@[simp] theorem pinGet_parallel (l : Line) (s : State) : (pinGet l s).parallel = s.parallel := by rw [pinGet_frame]
@[simp] theorem pinGet_sr (l : Line) (s : State) : (pinGet l s).sr = s.sr := by rw [pinGet_frame]
@[simp] theorem pinGet_transport (l : Line) (s : State) : (pinGet l s).transport = s.transport := by rw [pinGet_frame]
@[simp] theorem pinGet_chip (l : Line) (s : State) : (pinGet l s).chip = s.chip := by rw [pinGet_frame]
@[simp] theorem pinGet_pwrenLowAt (l : Line) (s : State) : (pinGet l s).pwrenLowAt = s.pwrenLowAt := by rw [pinGet_frame]
@[simp] theorem pinGet_answer (l : Line) (s : State) : (pinGet l s).answer = s.answer := by rw [pinGet_frame]
@[simp] theorem pinGet_host (l : Line) (s : State) : (pinGet l s).host = s.host := by rw [pinGet_frame]
@[simp] theorem pinGet_inPhase (l : Line) (s : State) : (pinGet l s).inPhase = s.inPhase := by rw [pinGet_frame]

/-- What `DelayUs` can change (R113). -/
theorem delayUs_frame (n : Nat) (s : State) :
    delayUs n s = { s with log := (delayUs n s).log, now := (delayUs n s).now, slack := (delayUs n s).slack } := by
  rfl

@[simp] theorem delayUs_params (n : Nat) (s : State) : (delayUs n s).params = s.params := by rw [delayUs_frame]
@[simp] theorem delayUs_addr (n : Nat) (s : State) : (delayUs n s).addr = s.addr := by rw [delayUs_frame]
@[simp] theorem delayUs_wdata (n : Nat) (s : State) : (delayUs n s).wdata = s.wdata := by rw [delayUs_frame]
@[simp] theorem delayUs_rdata (n : Nat) (s : State) : (delayUs n s).rdata = s.rdata := by rw [delayUs_frame]
@[simp] theorem delayUs_seq (n : Nat) (s : State) : (delayUs n s).seq = s.seq := by rw [delayUs_frame]
@[simp] theorem delayUs_started (n : Nat) (s : State) : (delayUs n s).started = s.started := by rw [delayUs_frame]
@[simp] theorem delayUs_serial (n : Nat) (s : State) : (delayUs n s).serial = s.serial := by rw [delayUs_frame]
@[simp] theorem delayUs_parallel (n : Nat) (s : State) : (delayUs n s).parallel = s.parallel := by rw [delayUs_frame]
@[simp] theorem delayUs_sr (n : Nat) (s : State) : (delayUs n s).sr = s.sr := by rw [delayUs_frame]
@[simp] theorem delayUs_transport (n : Nat) (s : State) : (delayUs n s).transport = s.transport := by rw [delayUs_frame]
@[simp] theorem delayUs_chip (n : Nat) (s : State) : (delayUs n s).chip = s.chip := by rw [delayUs_frame]
@[simp] theorem delayUs_pwrenLowAt (n : Nat) (s : State) : (delayUs n s).pwrenLowAt = s.pwrenLowAt := by rw [delayUs_frame]
@[simp] theorem delayUs_answer (n : Nat) (s : State) : (delayUs n s).answer = s.answer := by rw [delayUs_frame]
@[simp] theorem delayUs_sampled (n : Nat) (s : State) : (delayUs n s).sampled = s.sampled := by rw [delayUs_frame]
@[simp] theorem delayUs_host (n : Nat) (s : State) : (delayUs n s).host = s.host := by rw [delayUs_frame]
@[simp] theorem delayUs_inPhase (n : Nat) (s : State) : (delayUs n s).inPhase = s.inPhase := by rw [delayUs_frame]
@[simp] theorem delayUs_draws (n : Nat) (s : State) : (delayUs n s).draws = s.draws := by rw [delayUs_frame]

/-- What `DelayMs` can change (R115). -/
theorem delayMs_frame (n : Nat) (s : State) :
    delayMs n s = { s with log := (delayMs n s).log, now := (delayMs n s).now, slack := (delayMs n s).slack } := by
  rfl

@[simp] theorem delayMs_params (n : Nat) (s : State) : (delayMs n s).params = s.params := by rw [delayMs_frame]
@[simp] theorem delayMs_addr (n : Nat) (s : State) : (delayMs n s).addr = s.addr := by rw [delayMs_frame]
@[simp] theorem delayMs_wdata (n : Nat) (s : State) : (delayMs n s).wdata = s.wdata := by rw [delayMs_frame]
@[simp] theorem delayMs_rdata (n : Nat) (s : State) : (delayMs n s).rdata = s.rdata := by rw [delayMs_frame]
@[simp] theorem delayMs_seq (n : Nat) (s : State) : (delayMs n s).seq = s.seq := by rw [delayMs_frame]
@[simp] theorem delayMs_started (n : Nat) (s : State) : (delayMs n s).started = s.started := by rw [delayMs_frame]
@[simp] theorem delayMs_serial (n : Nat) (s : State) : (delayMs n s).serial = s.serial := by rw [delayMs_frame]
@[simp] theorem delayMs_parallel (n : Nat) (s : State) : (delayMs n s).parallel = s.parallel := by rw [delayMs_frame]
@[simp] theorem delayMs_sr (n : Nat) (s : State) : (delayMs n s).sr = s.sr := by rw [delayMs_frame]
@[simp] theorem delayMs_transport (n : Nat) (s : State) : (delayMs n s).transport = s.transport := by rw [delayMs_frame]
@[simp] theorem delayMs_chip (n : Nat) (s : State) : (delayMs n s).chip = s.chip := by rw [delayMs_frame]
@[simp] theorem delayMs_pwrenLowAt (n : Nat) (s : State) : (delayMs n s).pwrenLowAt = s.pwrenLowAt := by rw [delayMs_frame]
@[simp] theorem delayMs_answer (n : Nat) (s : State) : (delayMs n s).answer = s.answer := by rw [delayMs_frame]
@[simp] theorem delayMs_sampled (n : Nat) (s : State) : (delayMs n s).sampled = s.sampled := by rw [delayMs_frame]
@[simp] theorem delayMs_host (n : Nat) (s : State) : (delayMs n s).host = s.host := by rw [delayMs_frame]
@[simp] theorem delayMs_inPhase (n : Nat) (s : State) : (delayMs n s).inPhase = s.inPhase := by rw [delayMs_frame]
@[simp] theorem delayMs_draws (n : Nat) (s : State) : (delayMs n s).draws = s.draws := by rw [delayMs_frame]

/-- What `BusBegin` can change (R116). -/
theorem busBegin_frame (r : Nat) (s : State) :
    busBegin r s = { s with transport := (busBegin r s).transport, log := (busBegin r s).log, now := (busBegin r s).now, slack := (busBegin r s).slack } := by
  rfl

@[simp] theorem busBegin_params (r : Nat) (s : State) : (busBegin r s).params = s.params := by rw [busBegin_frame]
@[simp] theorem busBegin_addr (r : Nat) (s : State) : (busBegin r s).addr = s.addr := by rw [busBegin_frame]
@[simp] theorem busBegin_wdata (r : Nat) (s : State) : (busBegin r s).wdata = s.wdata := by rw [busBegin_frame]
@[simp] theorem busBegin_rdata (r : Nat) (s : State) : (busBegin r s).rdata = s.rdata := by rw [busBegin_frame]
@[simp] theorem busBegin_seq (r : Nat) (s : State) : (busBegin r s).seq = s.seq := by rw [busBegin_frame]
@[simp] theorem busBegin_started (r : Nat) (s : State) : (busBegin r s).started = s.started := by rw [busBegin_frame]
@[simp] theorem busBegin_serial (r : Nat) (s : State) : (busBegin r s).serial = s.serial := by rw [busBegin_frame]
@[simp] theorem busBegin_parallel (r : Nat) (s : State) : (busBegin r s).parallel = s.parallel := by rw [busBegin_frame]
@[simp] theorem busBegin_sr (r : Nat) (s : State) : (busBegin r s).sr = s.sr := by rw [busBegin_frame]
@[simp] theorem busBegin_chip (r : Nat) (s : State) : (busBegin r s).chip = s.chip := by rw [busBegin_frame]
@[simp] theorem busBegin_pwrenLowAt (r : Nat) (s : State) : (busBegin r s).pwrenLowAt = s.pwrenLowAt := by rw [busBegin_frame]
@[simp] theorem busBegin_answer (r : Nat) (s : State) : (busBegin r s).answer = s.answer := by rw [busBegin_frame]
@[simp] theorem busBegin_sampled (r : Nat) (s : State) : (busBegin r s).sampled = s.sampled := by rw [busBegin_frame]
@[simp] theorem busBegin_host (r : Nat) (s : State) : (busBegin r s).host = s.host := by rw [busBegin_frame]
@[simp] theorem busBegin_inPhase (r : Nat) (s : State) : (busBegin r s).inPhase = s.inPhase := by rw [busBegin_frame]
@[simp] theorem busBegin_draws (r : Nat) (s : State) : (busBegin r s).draws = s.draws := by rw [busBegin_frame]

/-- What `BusEnd` can change (R117). -/
theorem busEnd_frame (s : State) :
    busEnd s = { s with transport := (busEnd s).transport, log := (busEnd s).log, now := (busEnd s).now, slack := (busEnd s).slack } := by
  rfl

@[simp] theorem busEnd_params (s : State) : (busEnd s).params = s.params := by rw [busEnd_frame]
@[simp] theorem busEnd_addr (s : State) : (busEnd s).addr = s.addr := by rw [busEnd_frame]
@[simp] theorem busEnd_wdata (s : State) : (busEnd s).wdata = s.wdata := by rw [busEnd_frame]
@[simp] theorem busEnd_rdata (s : State) : (busEnd s).rdata = s.rdata := by rw [busEnd_frame]
@[simp] theorem busEnd_seq (s : State) : (busEnd s).seq = s.seq := by rw [busEnd_frame]
@[simp] theorem busEnd_started (s : State) : (busEnd s).started = s.started := by rw [busEnd_frame]
@[simp] theorem busEnd_serial (s : State) : (busEnd s).serial = s.serial := by rw [busEnd_frame]
@[simp] theorem busEnd_parallel (s : State) : (busEnd s).parallel = s.parallel := by rw [busEnd_frame]
@[simp] theorem busEnd_sr (s : State) : (busEnd s).sr = s.sr := by rw [busEnd_frame]
@[simp] theorem busEnd_chip (s : State) : (busEnd s).chip = s.chip := by rw [busEnd_frame]
@[simp] theorem busEnd_pwrenLowAt (s : State) : (busEnd s).pwrenLowAt = s.pwrenLowAt := by rw [busEnd_frame]
@[simp] theorem busEnd_answer (s : State) : (busEnd s).answer = s.answer := by rw [busEnd_frame]
@[simp] theorem busEnd_sampled (s : State) : (busEnd s).sampled = s.sampled := by rw [busEnd_frame]
@[simp] theorem busEnd_host (s : State) : (busEnd s).host = s.host := by rw [busEnd_frame]
@[simp] theorem busEnd_inPhase (s : State) : (busEnd s).inPhase = s.inPhase := by rw [busEnd_frame]
@[simp] theorem busEnd_draws (s : State) : (busEnd s).draws = s.draws := by rw [busEnd_frame]

/-- What the data byte of a write frame can change (R69). -/
theorem storeByte_frame (a : Addr) (x : Byte) (s : State) :
    s.storeByte a x = { s with chip := (s.storeByte a x).chip } := by
  unfold State.storeByte; split <;> rfl

@[simp] theorem storeByte_params (a : Addr) (x : Byte) (s : State) : (s.storeByte a x).params = s.params := by rw [storeByte_frame]
@[simp] theorem storeByte_addr (a : Addr) (x : Byte) (s : State) : (s.storeByte a x).addr = s.addr := by rw [storeByte_frame]
@[simp] theorem storeByte_wdata (a : Addr) (x : Byte) (s : State) : (s.storeByte a x).wdata = s.wdata := by rw [storeByte_frame]
@[simp] theorem storeByte_rdata (a : Addr) (x : Byte) (s : State) : (s.storeByte a x).rdata = s.rdata := by rw [storeByte_frame]
@[simp] theorem storeByte_seq (a : Addr) (x : Byte) (s : State) : (s.storeByte a x).seq = s.seq := by rw [storeByte_frame]
@[simp] theorem storeByte_started (a : Addr) (x : Byte) (s : State) : (s.storeByte a x).started = s.started := by rw [storeByte_frame]
@[simp] theorem storeByte_serial (a : Addr) (x : Byte) (s : State) : (s.storeByte a x).serial = s.serial := by rw [storeByte_frame]
@[simp] theorem storeByte_parallel (a : Addr) (x : Byte) (s : State) : (s.storeByte a x).parallel = s.parallel := by rw [storeByte_frame]
@[simp] theorem storeByte_sr (a : Addr) (x : Byte) (s : State) : (s.storeByte a x).sr = s.sr := by rw [storeByte_frame]
@[simp] theorem storeByte_transport (a : Addr) (x : Byte) (s : State) : (s.storeByte a x).transport = s.transport := by rw [storeByte_frame]
@[simp] theorem storeByte_now (a : Addr) (x : Byte) (s : State) : (s.storeByte a x).now = s.now := by rw [storeByte_frame]
@[simp] theorem storeByte_pwrenLowAt (a : Addr) (x : Byte) (s : State) : (s.storeByte a x).pwrenLowAt = s.pwrenLowAt := by rw [storeByte_frame]
@[simp] theorem storeByte_log (a : Addr) (x : Byte) (s : State) : (s.storeByte a x).log = s.log := by rw [storeByte_frame]
@[simp] theorem storeByte_answer (a : Addr) (x : Byte) (s : State) : (s.storeByte a x).answer = s.answer := by rw [storeByte_frame]
@[simp] theorem storeByte_sampled (a : Addr) (x : Byte) (s : State) : (s.storeByte a x).sampled = s.sampled := by rw [storeByte_frame]
@[simp] theorem storeByte_host (a : Addr) (x : Byte) (s : State) : (s.storeByte a x).host = s.host := by rw [storeByte_frame]
@[simp] theorem storeByte_inPhase (a : Addr) (x : Byte) (s : State) : (s.storeByte a x).inPhase = s.inPhase := by rw [storeByte_frame]
@[simp] theorem storeByte_slack (a : Addr) (x : Byte) (s : State) : (s.storeByte a x).slack = s.slack := by rw [storeByte_frame]
@[simp] theorem storeByte_draws (a : Addr) (x : Byte) (s : State) : (s.storeByte a x).draws = s.draws := by rw [storeByte_frame]

/-- What the bytes of a write phase can change (R68, R69). -/
theorem takeFrame_frame (bs : List Byte) (s : State) :
    s.takeFrame bs = { s with chip := (s.takeFrame bs).chip } := by
  unfold State.takeFrame; split <;> first | rfl | (rw [storeByte_frame]; rfl)

@[simp] theorem takeFrame_params (bs : List Byte) (s : State) : (s.takeFrame bs).params = s.params := by rw [takeFrame_frame]
@[simp] theorem takeFrame_addr (bs : List Byte) (s : State) : (s.takeFrame bs).addr = s.addr := by rw [takeFrame_frame]
@[simp] theorem takeFrame_wdata (bs : List Byte) (s : State) : (s.takeFrame bs).wdata = s.wdata := by rw [takeFrame_frame]
@[simp] theorem takeFrame_rdata (bs : List Byte) (s : State) : (s.takeFrame bs).rdata = s.rdata := by rw [takeFrame_frame]
@[simp] theorem takeFrame_seq (bs : List Byte) (s : State) : (s.takeFrame bs).seq = s.seq := by rw [takeFrame_frame]
@[simp] theorem takeFrame_started (bs : List Byte) (s : State) : (s.takeFrame bs).started = s.started := by rw [takeFrame_frame]
@[simp] theorem takeFrame_serial (bs : List Byte) (s : State) : (s.takeFrame bs).serial = s.serial := by rw [takeFrame_frame]
@[simp] theorem takeFrame_parallel (bs : List Byte) (s : State) : (s.takeFrame bs).parallel = s.parallel := by rw [takeFrame_frame]
@[simp] theorem takeFrame_sr (bs : List Byte) (s : State) : (s.takeFrame bs).sr = s.sr := by rw [takeFrame_frame]
@[simp] theorem takeFrame_transport (bs : List Byte) (s : State) : (s.takeFrame bs).transport = s.transport := by rw [takeFrame_frame]
@[simp] theorem takeFrame_now (bs : List Byte) (s : State) : (s.takeFrame bs).now = s.now := by rw [takeFrame_frame]
@[simp] theorem takeFrame_pwrenLowAt (bs : List Byte) (s : State) : (s.takeFrame bs).pwrenLowAt = s.pwrenLowAt := by rw [takeFrame_frame]
@[simp] theorem takeFrame_log (bs : List Byte) (s : State) : (s.takeFrame bs).log = s.log := by rw [takeFrame_frame]
@[simp] theorem takeFrame_answer (bs : List Byte) (s : State) : (s.takeFrame bs).answer = s.answer := by rw [takeFrame_frame]
@[simp] theorem takeFrame_sampled (bs : List Byte) (s : State) : (s.takeFrame bs).sampled = s.sampled := by rw [takeFrame_frame]
@[simp] theorem takeFrame_host (bs : List Byte) (s : State) : (s.takeFrame bs).host = s.host := by rw [takeFrame_frame]
@[simp] theorem takeFrame_inPhase (bs : List Byte) (s : State) : (s.takeFrame bs).inPhase = s.inPhase := by rw [takeFrame_frame]
@[simp] theorem takeFrame_slack (bs : List Byte) (s : State) : (s.takeFrame bs).slack = s.slack := by rw [takeFrame_frame]
@[simp] theorem takeFrame_draws (bs : List Byte) (s : State) : (s.takeFrame bs).draws = s.draws := by rw [takeFrame_frame]

/-- What `BusWrite` can change (R118). -/
theorem busWrite_frame (dev : DevAddr) (bs : List Byte) (stop : Bool) (s : State) :
    busWrite dev bs stop s = { s with transport := (busWrite dev bs stop s).transport, chip := (busWrite dev bs stop s).chip, log := (busWrite dev bs stop s).log, now := (busWrite dev bs stop s).now, slack := (busWrite dev bs stop s).slack, draws := (busWrite dev bs stop s).draws } := by
  unfold busWrite; simp only []; split
  · rw [takeFrame_frame]; rfl
  · rfl

@[simp] theorem busWrite_params (dev : DevAddr) (bs : List Byte) (stop : Bool) (s : State) : (busWrite dev bs stop s).params = s.params := by rw [busWrite_frame]
@[simp] theorem busWrite_addr (dev : DevAddr) (bs : List Byte) (stop : Bool) (s : State) : (busWrite dev bs stop s).addr = s.addr := by rw [busWrite_frame]
@[simp] theorem busWrite_wdata (dev : DevAddr) (bs : List Byte) (stop : Bool) (s : State) : (busWrite dev bs stop s).wdata = s.wdata := by rw [busWrite_frame]
@[simp] theorem busWrite_rdata (dev : DevAddr) (bs : List Byte) (stop : Bool) (s : State) : (busWrite dev bs stop s).rdata = s.rdata := by rw [busWrite_frame]
@[simp] theorem busWrite_seq (dev : DevAddr) (bs : List Byte) (stop : Bool) (s : State) : (busWrite dev bs stop s).seq = s.seq := by rw [busWrite_frame]
@[simp] theorem busWrite_started (dev : DevAddr) (bs : List Byte) (stop : Bool) (s : State) : (busWrite dev bs stop s).started = s.started := by rw [busWrite_frame]
@[simp] theorem busWrite_serial (dev : DevAddr) (bs : List Byte) (stop : Bool) (s : State) : (busWrite dev bs stop s).serial = s.serial := by rw [busWrite_frame]
@[simp] theorem busWrite_parallel (dev : DevAddr) (bs : List Byte) (stop : Bool) (s : State) : (busWrite dev bs stop s).parallel = s.parallel := by rw [busWrite_frame]
@[simp] theorem busWrite_sr (dev : DevAddr) (bs : List Byte) (stop : Bool) (s : State) : (busWrite dev bs stop s).sr = s.sr := by rw [busWrite_frame]
@[simp] theorem busWrite_pwrenLowAt (dev : DevAddr) (bs : List Byte) (stop : Bool) (s : State) : (busWrite dev bs stop s).pwrenLowAt = s.pwrenLowAt := by rw [busWrite_frame]
@[simp] theorem busWrite_answer (dev : DevAddr) (bs : List Byte) (stop : Bool) (s : State) : (busWrite dev bs stop s).answer = s.answer := by rw [busWrite_frame]
@[simp] theorem busWrite_sampled (dev : DevAddr) (bs : List Byte) (stop : Bool) (s : State) : (busWrite dev bs stop s).sampled = s.sampled := by rw [busWrite_frame]
@[simp] theorem busWrite_host (dev : DevAddr) (bs : List Byte) (stop : Bool) (s : State) : (busWrite dev bs stop s).host = s.host := by rw [busWrite_frame]
@[simp] theorem busWrite_inPhase (dev : DevAddr) (bs : List Byte) (stop : Bool) (s : State) : (busWrite dev bs stop s).inPhase = s.inPhase := by rw [busWrite_frame]

/-- What `BusRequest` can change (R119). -/
theorem busRequest_frame (dev : DevAddr) (s : State) :
    busRequest dev s = { s with transport := (busRequest dev s).transport, chip := (busRequest dev s).chip, log := (busRequest dev s).log, now := (busRequest dev s).now, slack := (busRequest dev s).slack, draws := (busRequest dev s).draws, answer := (busRequest dev s).answer } := by
  unfold busRequest; simp only []; split <;> rfl

@[simp] theorem busRequest_params (dev : DevAddr) (s : State) : (busRequest dev s).params = s.params := by rw [busRequest_frame]
@[simp] theorem busRequest_addr (dev : DevAddr) (s : State) : (busRequest dev s).addr = s.addr := by rw [busRequest_frame]
@[simp] theorem busRequest_wdata (dev : DevAddr) (s : State) : (busRequest dev s).wdata = s.wdata := by rw [busRequest_frame]
@[simp] theorem busRequest_rdata (dev : DevAddr) (s : State) : (busRequest dev s).rdata = s.rdata := by rw [busRequest_frame]
@[simp] theorem busRequest_seq (dev : DevAddr) (s : State) : (busRequest dev s).seq = s.seq := by rw [busRequest_frame]
@[simp] theorem busRequest_started (dev : DevAddr) (s : State) : (busRequest dev s).started = s.started := by rw [busRequest_frame]
@[simp] theorem busRequest_serial (dev : DevAddr) (s : State) : (busRequest dev s).serial = s.serial := by rw [busRequest_frame]
@[simp] theorem busRequest_parallel (dev : DevAddr) (s : State) : (busRequest dev s).parallel = s.parallel := by rw [busRequest_frame]
@[simp] theorem busRequest_sr (dev : DevAddr) (s : State) : (busRequest dev s).sr = s.sr := by rw [busRequest_frame]
@[simp] theorem busRequest_pwrenLowAt (dev : DevAddr) (s : State) : (busRequest dev s).pwrenLowAt = s.pwrenLowAt := by rw [busRequest_frame]
@[simp] theorem busRequest_sampled (dev : DevAddr) (s : State) : (busRequest dev s).sampled = s.sampled := by rw [busRequest_frame]
@[simp] theorem busRequest_host (dev : DevAddr) (s : State) : (busRequest dev s).host = s.host := by rw [busRequest_frame]
@[simp] theorem busRequest_inPhase (dev : DevAddr) (s : State) : (busRequest dev s).inPhase = s.inPhase := by rw [busRequest_frame]

/-- What the end of a readByte can change (R23). -/
theorem setRdata_frame (v : Byte) (s : State) :
    setRdata v s = { s with rdata := (setRdata v s).rdata, draws := (setRdata v s).draws } := by
  unfold setRdata; split <;> rfl

@[simp] theorem setRdata_params (v : Byte) (s : State) : (setRdata v s).params = s.params := by rw [setRdata_frame]
@[simp] theorem setRdata_addr (v : Byte) (s : State) : (setRdata v s).addr = s.addr := by rw [setRdata_frame]
@[simp] theorem setRdata_wdata (v : Byte) (s : State) : (setRdata v s).wdata = s.wdata := by rw [setRdata_frame]
@[simp] theorem setRdata_seq (v : Byte) (s : State) : (setRdata v s).seq = s.seq := by rw [setRdata_frame]
@[simp] theorem setRdata_started (v : Byte) (s : State) : (setRdata v s).started = s.started := by rw [setRdata_frame]
@[simp] theorem setRdata_serial (v : Byte) (s : State) : (setRdata v s).serial = s.serial := by rw [setRdata_frame]
@[simp] theorem setRdata_parallel (v : Byte) (s : State) : (setRdata v s).parallel = s.parallel := by rw [setRdata_frame]
@[simp] theorem setRdata_sr (v : Byte) (s : State) : (setRdata v s).sr = s.sr := by rw [setRdata_frame]
@[simp] theorem setRdata_transport (v : Byte) (s : State) : (setRdata v s).transport = s.transport := by rw [setRdata_frame]
@[simp] theorem setRdata_chip (v : Byte) (s : State) : (setRdata v s).chip = s.chip := by rw [setRdata_frame]
@[simp] theorem setRdata_now (v : Byte) (s : State) : (setRdata v s).now = s.now := by rw [setRdata_frame]
@[simp] theorem setRdata_pwrenLowAt (v : Byte) (s : State) : (setRdata v s).pwrenLowAt = s.pwrenLowAt := by rw [setRdata_frame]
@[simp] theorem setRdata_log (v : Byte) (s : State) : (setRdata v s).log = s.log := by rw [setRdata_frame]
@[simp] theorem setRdata_answer (v : Byte) (s : State) : (setRdata v s).answer = s.answer := by rw [setRdata_frame]
@[simp] theorem setRdata_sampled (v : Byte) (s : State) : (setRdata v s).sampled = s.sampled := by rw [setRdata_frame]
@[simp] theorem setRdata_host (v : Byte) (s : State) : (setRdata v s).host = s.host := by rw [setRdata_frame]
@[simp] theorem setRdata_inPhase (v : Byte) (s : State) : (setRdata v s).inPhase = s.inPhase := by rw [setRdata_frame]
@[simp] theorem setRdata_slack (v : Byte) (s : State) : (setRdata v s).slack = s.slack := by rw [setRdata_frame]

/-- What a readByte or writeByte outside the Active phase does beside its steps (U1). -/
theorem loseEeprom_frame (s : State) :
    loseEeprom s = { s with chip := (loseEeprom s).chip, draws := (loseEeprom s).draws } := by
  rfl

@[simp] theorem loseEeprom_params (s : State) : (loseEeprom s).params = s.params := by rw [loseEeprom_frame]
@[simp] theorem loseEeprom_addr (s : State) : (loseEeprom s).addr = s.addr := by rw [loseEeprom_frame]
@[simp] theorem loseEeprom_wdata (s : State) : (loseEeprom s).wdata = s.wdata := by rw [loseEeprom_frame]
@[simp] theorem loseEeprom_rdata (s : State) : (loseEeprom s).rdata = s.rdata := by rw [loseEeprom_frame]
@[simp] theorem loseEeprom_seq (s : State) : (loseEeprom s).seq = s.seq := by rw [loseEeprom_frame]
@[simp] theorem loseEeprom_started (s : State) : (loseEeprom s).started = s.started := by rw [loseEeprom_frame]
@[simp] theorem loseEeprom_serial (s : State) : (loseEeprom s).serial = s.serial := by rw [loseEeprom_frame]
@[simp] theorem loseEeprom_parallel (s : State) : (loseEeprom s).parallel = s.parallel := by rw [loseEeprom_frame]
@[simp] theorem loseEeprom_sr (s : State) : (loseEeprom s).sr = s.sr := by rw [loseEeprom_frame]
@[simp] theorem loseEeprom_transport (s : State) : (loseEeprom s).transport = s.transport := by rw [loseEeprom_frame]
@[simp] theorem loseEeprom_now (s : State) : (loseEeprom s).now = s.now := by rw [loseEeprom_frame]
@[simp] theorem loseEeprom_pwrenLowAt (s : State) : (loseEeprom s).pwrenLowAt = s.pwrenLowAt := by rw [loseEeprom_frame]
@[simp] theorem loseEeprom_log (s : State) : (loseEeprom s).log = s.log := by rw [loseEeprom_frame]
@[simp] theorem loseEeprom_answer (s : State) : (loseEeprom s).answer = s.answer := by rw [loseEeprom_frame]
@[simp] theorem loseEeprom_sampled (s : State) : (loseEeprom s).sampled = s.sampled := by rw [loseEeprom_frame]
@[simp] theorem loseEeprom_host (s : State) : (loseEeprom s).host = s.host := by rw [loseEeprom_frame]
@[simp] theorem loseEeprom_inPhase (s : State) : (loseEeprom s).inPhase = s.inPhase := by rw [loseEeprom_frame]
@[simp] theorem loseEeprom_slack (s : State) : (loseEeprom s).slack = s.slack := by rw [loseEeprom_frame]

/-- What the end of an operation can change (R137). -/
theorem finish_frame (op : Op) (s : State) :
    finish op s = { s with seq := (finish op s).seq, chip := (finish op s).chip, draws := (finish op s).draws } := by
  unfold finish; cases op <;> first | rfl | (simp only []; split <;> rfl)

@[simp] theorem finish_params (op : Op) (s : State) : (finish op s).params = s.params := by rw [finish_frame]
@[simp] theorem finish_addr (op : Op) (s : State) : (finish op s).addr = s.addr := by rw [finish_frame]
@[simp] theorem finish_wdata (op : Op) (s : State) : (finish op s).wdata = s.wdata := by rw [finish_frame]
@[simp] theorem finish_rdata (op : Op) (s : State) : (finish op s).rdata = s.rdata := by rw [finish_frame]
@[simp] theorem finish_started (op : Op) (s : State) : (finish op s).started = s.started := by rw [finish_frame]
@[simp] theorem finish_serial (op : Op) (s : State) : (finish op s).serial = s.serial := by rw [finish_frame]
@[simp] theorem finish_parallel (op : Op) (s : State) : (finish op s).parallel = s.parallel := by rw [finish_frame]
@[simp] theorem finish_sr (op : Op) (s : State) : (finish op s).sr = s.sr := by rw [finish_frame]
@[simp] theorem finish_transport (op : Op) (s : State) : (finish op s).transport = s.transport := by rw [finish_frame]
@[simp] theorem finish_now (op : Op) (s : State) : (finish op s).now = s.now := by rw [finish_frame]
@[simp] theorem finish_pwrenLowAt (op : Op) (s : State) : (finish op s).pwrenLowAt = s.pwrenLowAt := by rw [finish_frame]
@[simp] theorem finish_log (op : Op) (s : State) : (finish op s).log = s.log := by rw [finish_frame]
@[simp] theorem finish_answer (op : Op) (s : State) : (finish op s).answer = s.answer := by rw [finish_frame]
@[simp] theorem finish_sampled (op : Op) (s : State) : (finish op s).sampled = s.sampled := by rw [finish_frame]
@[simp] theorem finish_host (op : Op) (s : State) : (finish op s).host = s.host := by rw [finish_frame]
@[simp] theorem finish_inPhase (op : Op) (s : State) : (finish op s).inPhase = s.inPhase := by rw [finish_frame]
@[simp] theorem finish_slack (op : Op) (s : State) : (finish op s).slack = s.slack := by rw [finish_frame]

/-! ## What a micro-operation writes -/

/-- Writing a parallel line's registers writes the bank there. -/
@[simp] theorem putParallel_parallel (l : PLine) (r : LineReg) (s : State) :
    (s.putParallel l r).parallel = s.parallel.set l r := by
  cases l <;> simp [State.putParallel]

/-- Writing a serial line's registers writes the bank there. -/
@[simp] theorem putSerial_serial (l : SLine) (r : LineReg) (s : State) :
    (s.putSerial l r).serial = s.serial.set l r := by
  simp [State.putSerial]

@[simp] theorem pinModePar_parallel (l : PLine) (d : Dir) (s : State) :
    (pinMode (.par l) d s).parallel = s.parallel.set l { s.parallel.get l with dir := d } := by
  simp [pinMode, State.putLine, State.line]

@[simp] theorem pinSetPar_parallel (l : PLine) (v : Bool) (s : State) :
    (pinSet (.par l) v s).parallel = s.parallel.set l { s.parallel.get l with lat := v } := by
  simp [pinSet, State.putLine, State.line]

@[simp] theorem pinModeSer_serial (l : SLine) (d : Dir) (s : State) :
    (pinMode (.ser l) d s).serial = s.serial.set l { s.serial.get l with dir := d } := by
  simp [pinMode, State.putLine, State.line]

@[simp] theorem pinSetSer_serial (l : SLine) (v : Bool) (s : State) :
    (pinSet (.ser l) v s).serial = s.serial.set l { s.serial.get l with lat := v } := by
  simp [pinSet, State.putLine, State.line]

@[simp] theorem pinMode_log (l : Line) (d : Dir) (s : State) : (pinMode l d s).log = .mode l d :: s.log := by
  cases l <;> simp [pinMode, State.putLine]

@[simp] theorem pinSet_log (l : Line) (v : Bool) (s : State) : (pinSet l v s).log = .set l v :: s.log := by
  cases l <;> simp [pinSet, State.putLine]

@[simp] theorem pinMode_now (l : Line) (d : Dir) (s : State) : (pinMode l d s).now = s.now + s.slack.headD 0 := by
  cases l <;> simp [pinMode, State.putLine]

@[simp] theorem pinSet_now (l : Line) (v : Bool) (s : State) : (pinSet l v s).now = s.now + s.slack.headD 0 := by
  cases l <;> simp [pinSet, State.putLine]

@[simp] theorem pinMode_slack (l : Line) (d : Dir) (s : State) : (pinMode l d s).slack = s.slack.tail := by
  cases l <;> simp [pinMode, State.putLine]

@[simp] theorem pinSet_slack (l : Line) (v : Bool) (s : State) : (pinSet l v s).slack = s.slack.tail := by
  cases l <;> simp [pinSet, State.putLine]

@[simp] theorem pinGet_log (l : Line) (s : State) : (pinGet l s).log = .get l (pinLevel l s) :: s.log := (rfl)
@[simp] theorem pinGet_sampled (l : Line) (s : State) : (pinGet l s).sampled = s.sampled ++ [pinLevel l s] := (rfl)
@[simp] theorem pinGet_now (l : Line) (s : State) : (pinGet l s).now = s.now + s.slack.headD 0 := (rfl)
@[simp] theorem pinGet_slack (l : Line) (s : State) : (pinGet l s).slack = s.slack.tail := (rfl)
@[simp] theorem delayUs_log (n : Nat) (s : State) : (delayUs n s).log = .delayUs n :: s.log := (rfl)
@[simp] theorem delayUs_now (n : Nat) (s : State) : (delayUs n s).now = s.now + n + s.slack.headD 0 := (rfl)
@[simp] theorem delayUs_slack (n : Nat) (s : State) : (delayUs n s).slack = s.slack.tail := (rfl)
@[simp] theorem delayMs_log (n : Nat) (s : State) : (delayMs n s).log = .delayMs n :: s.log := (rfl)
@[simp] theorem delayMs_now (n : Nat) (s : State) : (delayMs n s).now = s.now + n * 1000 + s.slack.headD 0 := (rfl)
@[simp] theorem delayMs_slack (n : Nat) (s : State) : (delayMs n s).slack = s.slack.tail := (rfl)
@[simp] theorem busBegin_log (r : Nat) (s : State) : (busBegin r s).log = .busBegin r :: s.log := (rfl)
@[simp] theorem busBegin_now (r : Nat) (s : State) : (busBegin r s).now = s.now + s.slack.headD 0 := (rfl)
@[simp] theorem busBegin_slack (r : Nat) (s : State) : (busBegin r s).slack = s.slack.tail := (rfl)
@[simp] theorem busBegin_transport (r : Nat) (s : State) : (busBegin r s).transport = ⟨true, r, false⟩ := (rfl)
@[simp] theorem busEnd_log (s : State) : (busEnd s).log = .busEnd :: s.log := (rfl)
@[simp] theorem busEnd_now (s : State) : (busEnd s).now = s.now + s.slack.headD 0 := (rfl)
@[simp] theorem busEnd_slack (s : State) : (busEnd s).slack = s.slack.tail := (rfl)
@[simp] theorem busEnd_transport (s : State) : (busEnd s).transport = { s.transport with on := false } := (rfl)

@[simp] theorem busWrite_log (dev : DevAddr) (bs : List Byte) (stop : Bool) (s : State) :
    (busWrite dev bs stop s).log = .busWrite dev bs stop :: s.log := by
  simp only [busWrite]; split <;> simp

@[simp] theorem busWrite_now (dev : DevAddr) (bs : List Byte) (stop : Bool) (s : State) :
    (busWrite dev bs stop s).now = s.now + s.slack.headD 0 := by
  simp only [busWrite]; split <;> simp

@[simp] theorem busWrite_slack (dev : DevAddr) (bs : List Byte) (stop : Bool) (s : State) :
    (busWrite dev bs stop s).slack = s.slack.tail := by
  simp only [busWrite]; split <;> simp

@[simp] theorem busWrite_transport (dev : DevAddr) (bs : List Byte) (stop : Bool) (s : State) :
    (busWrite dev bs stop s).transport = { s.transport with held := !stop } := by
  simp only [busWrite]; split <;> simp

@[simp] theorem busRequest_log (dev : DevAddr) (s : State) :
    (busRequest dev s).log = .busRequest dev 1 true (s.requestAnswer dev) :: s.log := by
  simp only [busRequest]; split <;> rfl

@[simp] theorem busRequest_now (dev : DevAddr) (s : State) : (busRequest dev s).now = s.now + s.slack.headD 0 := by
  simp only [busRequest]; split <;> rfl

@[simp] theorem busRequest_slack (dev : DevAddr) (s : State) : (busRequest dev s).slack = s.slack.tail := by
  simp only [busRequest]; split <;> rfl

@[simp] theorem busRequest_answer (dev : DevAddr) (s : State) : (busRequest dev s).answer = s.requestAnswer dev := by
  simp only [busRequest]; split <;> rfl

@[simp] theorem busRequest_transport (dev : DevAddr) (s : State) :
    (busRequest dev s).transport = { s.transport with held := false } := by
  simp only [busRequest]; split <;> rfl

@[simp] theorem finish_seq (op : Op) (s : State) : (finish op s).seq = .idle := by
  unfold finish; cases op <;> first | rfl | (simp only []; split <;> rfl)

/-! ## Where nothing is wired to the line, nothing else happens -/

theorem putParallel_sr {l : PLine} (h : l ≠ .shclk) (r : LineReg) (s : State) : (s.putParallel l r).sr = s.sr := by
  cases l <;> first | exact absurd rfl h | simp [State.putParallel]

theorem putParallel_chip {l : PLine} (h : l ≠ .we) (h' : l ≠ .pwren) (r : LineReg) (s : State) :
    (s.putParallel l r).chip = s.chip := by
  cases l <;> first | exact absurd rfl h | exact absurd rfl h' | simp [State.putParallel]

theorem putParallel_pwrenLowAt {l : PLine} (h : l ≠ .pwren) (r : LineReg) (s : State) :
    (s.putParallel l r).pwrenLowAt = s.pwrenLowAt := by
  cases l <;> first | exact absurd rfl h | simp [State.putParallel]

theorem putSerial_chip {l : SLine} (h : l ≠ .pwr) (r : LineReg) (s : State) : (s.putSerial l r).chip = s.chip := by
  have hp : (s.serial.set l r).powered = s.serial.powered := by
    cases l <;> first | exact absurd rfl h | rfl
  simp only [State.putSerial, hp]
  cases s.serial.powered <;> rfl

@[simp] theorem pinModePar_sr {l : PLine} (h : l ≠ .shclk) (d : Dir) (s : State) : (pinMode (.par l) d s).sr = s.sr := by
  simp [pinMode, State.putLine, putParallel_sr h]

@[simp] theorem pinSetPar_sr {l : PLine} (h : l ≠ .shclk) (v : Bool) (s : State) : (pinSet (.par l) v s).sr = s.sr := by
  simp [pinSet, State.putLine, putParallel_sr h]

@[simp] theorem pinModePar_chip {l : PLine} (h : l ≠ .we) (h' : l ≠ .pwren) (d : Dir) (s : State) :
    (pinMode (.par l) d s).chip = s.chip := by
  simp [pinMode, State.putLine, putParallel_chip h h']

@[simp] theorem pinSetPar_chip {l : PLine} (h : l ≠ .we) (h' : l ≠ .pwren) (v : Bool) (s : State) :
    (pinSet (.par l) v s).chip = s.chip := by
  simp [pinSet, State.putLine, putParallel_chip h h']

/-- `PinMode` writes no latch, so `LAT[PWREN]` does not go to 0 by it (R110). -/
@[simp] theorem pinModePar_pwrenLowAt (l : PLine) (d : Dir) (s : State) :
    (pinMode (.par l) d s).pwrenLowAt = s.pwrenLowAt := by
  by_cases h : l = .pwren
  · subst h; simp [pinMode, State.putLine, State.putParallel, State.line, ParallelLines.get]
  · simp [pinMode, State.putLine, putParallel_pwrenLowAt h]

@[simp] theorem pinSetPar_pwrenLowAt {l : PLine} (h : l ≠ .pwren) (v : Bool) (s : State) :
    (pinSet (.par l) v s).pwrenLowAt = s.pwrenLowAt := by
  simp [pinSet, State.putLine, putParallel_pwrenLowAt h]

@[simp] theorem pinModeSer_chip {l : SLine} (h : l ≠ .pwr) (d : Dir) (s : State) :
    (pinMode (.ser l) d s).chip = s.chip := by
  simp [pinMode, State.putLine, putSerial_chip h]

@[simp] theorem pinSetSer_chip {l : SLine} (h : l ≠ .pwr) (v : Bool) (s : State) :
    (pinSet (.ser l) v s).chip = s.chip := by
  simp [pinSet, State.putLine, putSerial_chip h]

/-! ## The EEPROM array -/

@[simp] theorem powerChange_mem (a b : Bool) (n : Nat) (s : State) : (s.powerChange a b n).chip.mem = s.chip.mem := by
  cases a <;> cases b <;> rfl

/-- No line but `WE` can change the array: power never does (R64, R203). -/
@[simp] theorem pinModePar_mem {l : PLine} (h : l ≠ .we) (d : Dir) (s : State) :
    (pinMode (.par l) d s).chip.mem = s.chip.mem := by
  cases l <;> first | exact absurd rfl h | simp [pinMode, State.putLine, State.putParallel]

@[simp] theorem pinSetPar_mem {l : PLine} (h : l ≠ .we) (v : Bool) (s : State) :
    (pinSet (.par l) v s).chip.mem = s.chip.mem := by
  cases l <;> first | exact absurd rfl h | simp [pinSet, State.putLine, State.putParallel]

@[simp] theorem pinModeSer_mem (l : SLine) (d : Dir) (s : State) : (pinMode (.ser l) d s).chip.mem = s.chip.mem := by
  simp [pinMode, State.putLine, State.putSerial]

@[simp] theorem pinSetSer_mem (l : SLine) (v : Bool) (s : State) : (pinSet (.ser l) v s).chip.mem = s.chip.mem := by
  simp [pinSet, State.putLine, State.putSerial]

@[simp] theorem busRequest_mem (dev : DevAddr) (s : State) : (busRequest dev s).chip.mem = s.chip.mem := by
  simp only [busRequest]; split <;> rfl

/-! ## A write of what the line holds already -/

/-- `SHCLK` as it was moves nothing (R110, R111, R176). -/
theorem clockShift_same (a : LineReg) (s : State) : s.clockShift a a = s := by
  unfold State.clockShift
  cases h : a.drive <;> simp

/-- `WE` as it was begins and ends no write pulse (R66). -/
theorem clockWrite_same (a : Level) (s : State) : s.clockWrite a a = s := by
  unfold State.clockWrite
  cases a <;> simp

/-- Writing a line's registers as they are changes nothing, whatever the line is wired to (R110, R111). -/
@[simp] theorem putLine_same (l : Line) (s : State) : s.putLine l (s.line l) = s := by
  cases l with
  | ser l =>
    have h : s.serial.set l (s.serial.get l) = s.serial := by cases l <;> rfl
    simp only [State.putLine, State.putSerial, State.line, h]
    cases s.serial.powered <;> rfl
  | par l =>
    cases l with
    | shclk => exact clockShift_same _ _
    | we => exact clockWrite_same _ _
    | pwren =>
      have h : s.parallel.set .pwren (s.parallel.get .pwren) = s.parallel := rfl
      simp only [State.putLine, State.putParallel, State.line, h, Bool.and_not_self, Bool.false_eq_true, if_false]
      cases s.parallel.powered <;> rfl
    | d0 | d1 | d2 | d3 | d4 | d5 | d6 | d7 | shdat | shen | oe => rfl

/-- `PinMode(L, d)` on a line of direction `d` is recorded and changes nothing (R110). -/
theorem pinMode_same {l : Line} {d : Dir} {s : State} (h : (s.line l).dir = d) :
    pinMode l d s = (s.emit (.mode l d)).tick 0 := by
  subst h
  exact congrArg (fun t => (State.emit (.mode l (s.line l).dir) t).tick 0) (putLine_same l s)

/-- `PinSet(L, v)` on a line whose latch is `v` is recorded and changes nothing (R111). -/
theorem pinSet_same {l : Line} {v : Bool} {s : State} (h : (s.line l).lat = v) :
    pinSet l v s = (s.emit (.set l v)).tick 0 := by
  subst h
  exact congrArg (fun t => (State.emit (.set l (s.line l).lat) t).tick 0) (putLine_same l s)

/-! ## Waits and the start of the bus, by a parameter of R10 -/

@[simp] theorem waitUs_eq (t : Constants → Nat) (s : State) : waitUs t s = delayUs (t s.params.constants) s := rfl
@[simp] theorem waitMs_eq (t : Constants → Nat) (s : State) : waitMs t s = delayMs (t s.params.constants) s := rfl
@[simp] theorem startBus_eq (s : State) : startBus s = busBegin s.params.constants.busRateHz s := rfl

/-- The delays of this hardware, in the units of their names (R10). -/
theorem given_delays {k : Constants} (h : k = .given) :
    k.tSerWpUs = 1 ∧ k.tSerWriteMs = 5 ∧ k.tSerProtectMs = 5 ∧ k.tParPowerMs = 100 ∧ k.tParOeUs = 1 ∧ k.tParOeOffUs = 1
      ∧ k.tParSetupUs = 1 ∧ k.tParWeUs = 1 ∧ k.tParWriteMs = 10 := by
  subst h
  exact ⟨rfl, rfl, rfl, rfl, rfl, rfl, rfl, rfl, rfl⟩

end Sys2Proof.Machine
end

