-- ==== Sys2Proof/Laws/Latch.lean ====
section
/-! SUPPORT. `Latch` (spec/43_parallel_driver.md R170, R178): what it keeps, what it leaves on its lines and in `SR`, its trace. -/

namespace Sys2Proof.Machine

/-- A fold whose step keeps something keeps it. -/
theorem foldl_keeps {α β γ : Type} (f : α → γ) (g : α → β → α) (h : ∀ a b, f (g a b) = f a) (l : List β) (a : α) :
    f (l.foldl g a) = f a := by
  induction l generalizing a with
  | nil => rfl
  | cons b l ih => rw [List.foldl_cons, ih, h]

/-! ## What one round and the whole latch keep -/

@[simp] theorem shiftBit_params (b : Bool) (s : State) : (shiftBit b s).params = s.params := by simp [shiftBit]
@[simp] theorem shiftBit_addr (b : Bool) (s : State) : (shiftBit b s).addr = s.addr := by simp [shiftBit]
@[simp] theorem shiftBit_wdata (b : Bool) (s : State) : (shiftBit b s).wdata = s.wdata := by simp [shiftBit]
@[simp] theorem shiftBit_rdata (b : Bool) (s : State) : (shiftBit b s).rdata = s.rdata := by simp [shiftBit]
@[simp] theorem shiftBit_seq (b : Bool) (s : State) : (shiftBit b s).seq = s.seq := by simp [shiftBit]
@[simp] theorem shiftBit_started (b : Bool) (s : State) : (shiftBit b s).started = s.started := by simp [shiftBit]
@[simp] theorem shiftBit_serial (b : Bool) (s : State) : (shiftBit b s).serial = s.serial := by simp [shiftBit]
@[simp] theorem shiftBit_transport (b : Bool) (s : State) : (shiftBit b s).transport = s.transport := by simp [shiftBit]
@[simp] theorem shiftBit_chip (b : Bool) (s : State) : (shiftBit b s).chip = s.chip := by simp [shiftBit]
@[simp] theorem shiftBit_pwrenLowAt (b : Bool) (s : State) : (shiftBit b s).pwrenLowAt = s.pwrenLowAt := by simp [shiftBit]
@[simp] theorem shiftBit_answer (b : Bool) (s : State) : (shiftBit b s).answer = s.answer := by simp [shiftBit]
@[simp] theorem shiftBit_sampled (b : Bool) (s : State) : (shiftBit b s).sampled = s.sampled := by simp [shiftBit]
@[simp] theorem shiftBit_host (b : Bool) (s : State) : (shiftBit b s).host = s.host := by simp [shiftBit]
@[simp] theorem shiftBit_inPhase (b : Bool) (s : State) : (shiftBit b s).inPhase = s.inPhase := by simp [shiftBit]

@[simp] theorem latch_params (a : Addr) (s : State) : (latch a s).params = s.params := by
  rw [latch, foldl_keeps State.params _ fun s b => shiftBit_params b s]; simp
@[simp] theorem latch_addr (a : Addr) (s : State) : (latch a s).addr = s.addr := by
  rw [latch, foldl_keeps State.addr _ fun s b => shiftBit_addr b s]; simp
@[simp] theorem latch_wdata (a : Addr) (s : State) : (latch a s).wdata = s.wdata := by
  rw [latch, foldl_keeps State.wdata _ fun s b => shiftBit_wdata b s]; simp
@[simp] theorem latch_rdata (a : Addr) (s : State) : (latch a s).rdata = s.rdata := by
  rw [latch, foldl_keeps State.rdata _ fun s b => shiftBit_rdata b s]; simp
@[simp] theorem latch_seq (a : Addr) (s : State) : (latch a s).seq = s.seq := by
  rw [latch, foldl_keeps State.seq _ fun s b => shiftBit_seq b s]; simp
@[simp] theorem latch_started (a : Addr) (s : State) : (latch a s).started = s.started := by
  rw [latch, foldl_keeps State.started _ fun s b => shiftBit_started b s]; simp
@[simp] theorem latch_serial (a : Addr) (s : State) : (latch a s).serial = s.serial := by
  rw [latch, foldl_keeps State.serial _ fun s b => shiftBit_serial b s]; simp
@[simp] theorem latch_transport (a : Addr) (s : State) : (latch a s).transport = s.transport := by
  rw [latch, foldl_keeps State.transport _ fun s b => shiftBit_transport b s]; simp
@[simp] theorem latch_chip (a : Addr) (s : State) : (latch a s).chip = s.chip := by
  rw [latch, foldl_keeps State.chip _ fun s b => shiftBit_chip b s]; simp
@[simp] theorem latch_pwrenLowAt (a : Addr) (s : State) : (latch a s).pwrenLowAt = s.pwrenLowAt := by
  rw [latch, foldl_keeps State.pwrenLowAt _ fun s b => shiftBit_pwrenLowAt b s]; simp
@[simp] theorem latch_answer (a : Addr) (s : State) : (latch a s).answer = s.answer := by
  rw [latch, foldl_keeps State.answer _ fun s b => shiftBit_answer b s]; simp
@[simp] theorem latch_sampled (a : Addr) (s : State) : (latch a s).sampled = s.sampled := by
  rw [latch, foldl_keeps State.sampled _ fun s b => shiftBit_sampled b s]; simp
@[simp] theorem latch_host (a : Addr) (s : State) : (latch a s).host = s.host := by
  rw [latch, foldl_keeps State.host _ fun s b => shiftBit_host b s]; simp
@[simp] theorem latch_inPhase (a : Addr) (s : State) : (latch a s).inPhase = s.inPhase := by
  rw [latch, foldl_keeps State.inPhase _ fun s b => shiftBit_inPhase b s]; simp

/-! ## The lines and the trace -/

@[simp] theorem shiftBit_parallel (b : Bool) (s : State) : (shiftBit b s).parallel =
    { s.parallel with
      shclk := { s.parallel.shclk with lat := false }, shdat := { s.parallel.shdat with lat := b } } := by
  simp [shiftBit, ParallelLines.set, ParallelLines.get]

@[simp] theorem shiftBit_log (b : Bool) (s : State) : (shiftBit b s).log =
    .set (.par .shclk) false :: .set (.par .shclk) true :: .set (.par .shdat) b :: s.log := by
  simp [shiftBit]

theorem foldl_shiftBit_log (l : List Bool) (s : State) : (l.foldl (fun s b => shiftBit b s) s).log =
    (l.flatMap fun b => [.set (.par .shdat) b, .set (.par .shclk) true, .set (.par .shclk) false]).reverse ++ s.log := by
  induction l generalizing s with
  | nil => rfl
  | cons b l ih => rw [List.foldl_cons, ih]; simp

@[simp] theorem latch_log (a : Addr) (s : State) : (latch a s).log = (latchEvents a).reverse ++ s.log := by
  rw [latch, foldl_shiftBit_log, latchEvents]; simp

theorem foldl_shiftBit_parallel (l : List Bool) (s : State) : (l.foldl (fun s b => shiftBit b s) s).parallel =
    { s.parallel with
      shclk := { s.parallel.shclk with lat := if l = [] then s.parallel.shclk.lat else false }
      shdat := { s.parallel.shdat with lat := l.getLastD s.parallel.shdat.lat } } := by
  induction l generalizing s with
  | nil => rfl
  | cons b l ih => rw [List.foldl_cons, ih]; cases l <;> simp [List.getLastD]

theorem shiftStream_getLastD (a : Addr) (b : Bool) : (shiftStream a).getLastD b = a.getLsbD 0 := rfl

/-- After `Latch(a)`: `LAT[SHCLK] = 0`, `LAT[SHDAT] = a[0]`, every other line register as before (R170). -/
@[simp] theorem latch_parallel (a : Addr) (s : State) : (latch a s).parallel =
    { s.parallel with
      shclk := { s.parallel.shclk with lat := false }, shdat := { s.parallel.shdat with lat := a.getLsbD 0 } } := by
  rw [latch, foldl_shiftBit_parallel, shiftStream_getLastD]
  simp [ParallelLines.set, ParallelLines.get, shiftStream]

/-- Time does not run back in a latch (R114). -/
theorem latch_now_le (a : Addr) (s : State) : s.now ≤ (latch a s).now := by
  have h : ∀ (l : List Bool) (u : State), u.now ≤ (l.foldl (fun s b => shiftBit b s) u).now := by
    intro l
    induction l with
    | nil => exact fun u => Nat.le_refl _
    | cons b l ih => exact fun u => Nat.le_trans (by simp [shiftBit]; omega) (ih _)
  exact Nat.le_trans (by simp) (h _ _)

/-! ## The shift register -/

/-- A rising edge of a driven `SHCLK` takes in the level of a driven `SHDAT` (R176). -/
theorem pinSet_shclk_rise {s : State} (hd : s.parallel.shdat.dir = .output) (hc : s.parallel.shclk = ⟨.output, false⟩) :
    (pinSet (.par .shclk) true s).sr = shiftIn s.sr s.parallel.shdat.lat := by
  have he : ∀ b : ParallelLines, b.shdat = s.parallel.shdat → b.shdat.drive = Level.ofBool s.parallel.shdat.lat := by
    intro b hb; rw [hb, LineReg.drive, hd]
  cases hl : s.parallel.shdat.lat <;>
    simp [pinSet, State.putLine, State.putParallel, State.line, ParallelLines.get, ParallelLines.set, hc, LineReg.drive,
      Level.ofBool, State.clockShift, State.observe, State.eff, PLine.dataIndex, hd, hl]

/-- Writing 0 to a driven `SHCLK` is no rising edge (R176). -/
theorem pinSet_shclk_fall {s : State} (hc : s.parallel.shclk.dir = .output) : (pinSet (.par .shclk) false s).sr = s.sr := by
  cases hl : s.parallel.shclk.lat <;>
    simp [pinSet, State.putLine, State.putParallel, State.line, ParallelLines.get, hc, hl, LineReg.drive, Level.ofBool,
      State.clockShift]

/-- Making `SHCLK` an output leaves `SR` as it was (R171, R180). -/
@[simp] theorem pinMode_shclk_output_sr (s : State) : (pinMode (.par .shclk) .output s).sr = s.sr := by
  cases hd : s.parallel.shclk.dir <;> cases hl : s.parallel.shclk.lat <;>
    simp [pinMode, State.putLine, State.putParallel, State.line, ParallelLines.get, hd, hl, LineReg.drive, Level.ofBool,
      State.clockShift]

/-- One round of `Latch` shifts one bit in (R178). -/
theorem shiftBit_sr {b : Bool} {s : State} (hd : s.parallel.shdat.dir = .output)
    (hc : s.parallel.shclk = ⟨.output, false⟩) : (shiftBit b s).sr = shiftIn s.sr b := by
  rw [shiftBit, pinSet_shclk_fall (by simp [ParallelLines.set, ParallelLines.get, hc]),
    pinSet_shclk_rise (by simp [ParallelLines.set, ParallelLines.get, hd])
      (by simp [ParallelLines.set, hc])]
  simp [ParallelLines.set, ParallelLines.get]

theorem foldl_shiftBit_sr (l : List Bool) {s : State} (hd : s.parallel.shdat.dir = .output)
    (hc : s.parallel.shclk = ⟨.output, false⟩) : (l.foldl (fun s b => shiftBit b s) s).sr =
      l.foldl shiftIn s.sr := by
  induction l generalizing s with
  | nil => rfl
  | cons b l ih =>
    rw [List.foldl_cons, ih (by simp [hd]) (by simp [hc]), shiftBit_sr hd hc, List.foldl_cons]

/-- The bits after one shift: the new one at place 0, every other one place up (R176). -/
theorem shiftIn_getLsbD (r : Addr) (b : Bool) (i : Nat) :
    (shiftIn r b).getLsbD i = if i = 0 then b else decide (i < 16) && r.getLsbD (i - 1) := by
  have h := BitVec.getLsbD_append (x := r.extractLsb' 0 15) (y := BitVec.ofBool b) (i := i)
  show (r.extractLsb' 0 15 ++ BitVec.ofBool b).getLsbD i = _
  rw [h]
  by_cases hi : i = 0
  · simp [hi]
  · have h1 : ¬ i < 1 := by omega
    rw [if_neg h1, if_neg hi, BitVec.getLsbD_extractLsb']
    congr 1
    · exact decide_eq_decide.2 (by omega)
    · rw [Nat.zero_add]

/-- Sixteen shifts of the shift stream of `a` leave `a`, whatever was there before (R178). -/
theorem shiftStream_fills (a r : Addr) : (shiftStream a).foldl shiftIn r = a := by
  apply BitVec.eq_of_getLsbD_eq
  intro i hi
  have hi : i < 16 := hi
  simp only [shiftStream, List.range, List.range.loop, List.map_cons, List.map_nil, List.foldl_cons, List.foldl_nil,
    shiftIn_getLsbD]
  interval_cases i <;> rfl

/-- `Latch` is correct (R178): from output lines, `SR = a` at the end whatever it held. -/
theorem latch_sr {a : Addr} {s : State} (hd : s.parallel.shdat.dir = .output) (hc : s.parallel.shclk.dir = .output) :
    (latch a s).sr = a := by
  rw [latch, foldl_shiftBit_sr _ (by simp [ParallelLines.set, hd]) (by simp [ParallelLines.set, ParallelLines.get, hc])]
  exact shiftStream_fills a _

end Sys2Proof.Machine
end

