-- ==== Sys2Proof/Laws/Steps.lean ====
section
/-! SUPPORT. The loops over the data lines and the steps of the two variants: what each keeps and what it leaves. -/

namespace Sys2Proof.Machine

/-! ## The loops over the data lines (spec/43_parallel_driver.md R173 to R175) -/

@[simp] theorem dataMode_params (d : Dir) (s : State) : (dataMode d s).params = s.params := by simp [dataMode, dataLines]
@[simp] theorem dataMode_addr (d : Dir) (s : State) : (dataMode d s).addr = s.addr := by simp [dataMode, dataLines]
@[simp] theorem dataMode_wdata (d : Dir) (s : State) : (dataMode d s).wdata = s.wdata := by simp [dataMode, dataLines]
@[simp] theorem dataMode_rdata (d : Dir) (s : State) : (dataMode d s).rdata = s.rdata := by simp [dataMode, dataLines]
@[simp] theorem dataMode_seq (d : Dir) (s : State) : (dataMode d s).seq = s.seq := by simp [dataMode, dataLines]
@[simp] theorem dataMode_started (d : Dir) (s : State) : (dataMode d s).started = s.started := by simp [dataMode, dataLines]
@[simp] theorem dataMode_serial (d : Dir) (s : State) : (dataMode d s).serial = s.serial := by simp [dataMode, dataLines]
@[simp] theorem dataMode_transport (d : Dir) (s : State) : (dataMode d s).transport = s.transport := by simp [dataMode, dataLines]
@[simp] theorem dataMode_answer (d : Dir) (s : State) : (dataMode d s).answer = s.answer := by simp [dataMode, dataLines]
@[simp] theorem dataMode_host (d : Dir) (s : State) : (dataMode d s).host = s.host := by simp [dataMode, dataLines]
@[simp] theorem dataMode_inPhase (d : Dir) (s : State) : (dataMode d s).inPhase = s.inPhase := by simp [dataMode, dataLines]
@[simp] theorem dataMode_sr (d : Dir) (s : State) : (dataMode d s).sr = s.sr := by simp [dataMode, dataLines]
@[simp] theorem dataMode_chip (d : Dir) (s : State) : (dataMode d s).chip = s.chip := by simp [dataMode, dataLines]
@[simp] theorem dataMode_pwrenLowAt (d : Dir) (s : State) : (dataMode d s).pwrenLowAt = s.pwrenLowAt := by simp [dataMode, dataLines]
@[simp] theorem dataMode_sampled (d : Dir) (s : State) : (dataMode d s).sampled = s.sampled := by simp [dataMode, dataLines]

@[simp] theorem dataSet_params (s : State) : (dataSet s).params = s.params := by simp [dataSet, dataLines]
@[simp] theorem dataSet_addr (s : State) : (dataSet s).addr = s.addr := by simp [dataSet, dataLines]
@[simp] theorem dataSet_wdata (s : State) : (dataSet s).wdata = s.wdata := by simp [dataSet, dataLines]
@[simp] theorem dataSet_rdata (s : State) : (dataSet s).rdata = s.rdata := by simp [dataSet, dataLines]
@[simp] theorem dataSet_seq (s : State) : (dataSet s).seq = s.seq := by simp [dataSet, dataLines]
@[simp] theorem dataSet_started (s : State) : (dataSet s).started = s.started := by simp [dataSet, dataLines]
@[simp] theorem dataSet_serial (s : State) : (dataSet s).serial = s.serial := by simp [dataSet, dataLines]
@[simp] theorem dataSet_transport (s : State) : (dataSet s).transport = s.transport := by simp [dataSet, dataLines]
@[simp] theorem dataSet_answer (s : State) : (dataSet s).answer = s.answer := by simp [dataSet, dataLines]
@[simp] theorem dataSet_host (s : State) : (dataSet s).host = s.host := by simp [dataSet, dataLines]
@[simp] theorem dataSet_inPhase (s : State) : (dataSet s).inPhase = s.inPhase := by simp [dataSet, dataLines]
@[simp] theorem dataSet_sr (s : State) : (dataSet s).sr = s.sr := by simp [dataSet, dataLines]
@[simp] theorem dataSet_chip (s : State) : (dataSet s).chip = s.chip := by simp [dataSet, dataLines]
@[simp] theorem dataSet_pwrenLowAt (s : State) : (dataSet s).pwrenLowAt = s.pwrenLowAt := by simp [dataSet, dataLines]
@[simp] theorem dataSet_sampled (s : State) : (dataSet s).sampled = s.sampled := by simp [dataSet, dataLines]

@[simp] theorem dataGet_params (s : State) : (dataGet s).params = s.params := by simp [dataGet, dataLines]
@[simp] theorem dataGet_addr (s : State) : (dataGet s).addr = s.addr := by simp [dataGet, dataLines]
@[simp] theorem dataGet_wdata (s : State) : (dataGet s).wdata = s.wdata := by simp [dataGet, dataLines]
@[simp] theorem dataGet_rdata (s : State) : (dataGet s).rdata = s.rdata := by simp [dataGet, dataLines]
@[simp] theorem dataGet_seq (s : State) : (dataGet s).seq = s.seq := by simp [dataGet, dataLines]
@[simp] theorem dataGet_started (s : State) : (dataGet s).started = s.started := by simp [dataGet, dataLines]
@[simp] theorem dataGet_serial (s : State) : (dataGet s).serial = s.serial := by simp [dataGet, dataLines]
@[simp] theorem dataGet_transport (s : State) : (dataGet s).transport = s.transport := by simp [dataGet, dataLines]
@[simp] theorem dataGet_answer (s : State) : (dataGet s).answer = s.answer := by simp [dataGet, dataLines]
@[simp] theorem dataGet_host (s : State) : (dataGet s).host = s.host := by simp [dataGet, dataLines]
@[simp] theorem dataGet_inPhase (s : State) : (dataGet s).inPhase = s.inPhase := by simp [dataGet, dataLines]
@[simp] theorem dataGet_sr (s : State) : (dataGet s).sr = s.sr := by simp [dataGet, dataLines]
@[simp] theorem dataGet_chip (s : State) : (dataGet s).chip = s.chip := by simp [dataGet, dataLines]
@[simp] theorem dataGet_pwrenLowAt (s : State) : (dataGet s).pwrenLowAt = s.pwrenLowAt := by simp [dataGet, dataLines]
@[simp] theorem dataGet_parallel (s : State) : (dataGet s).parallel = s.parallel := by simp [dataGet, dataLines]

@[simp] theorem dataMode_parallel (d : Dir) (s : State) : (dataMode d s).parallel =
    { s.parallel with
      d0 := ⟨d, s.parallel.d0.lat⟩, d1 := ⟨d, s.parallel.d1.lat⟩, d2 := ⟨d, s.parallel.d2.lat⟩
      d3 := ⟨d, s.parallel.d3.lat⟩, d4 := ⟨d, s.parallel.d4.lat⟩, d5 := ⟨d, s.parallel.d5.lat⟩
      d6 := ⟨d, s.parallel.d6.lat⟩, d7 := ⟨d, s.parallel.d7.lat⟩ } := by
  simp [dataMode, dataLines, ParallelLines.set, ParallelLines.get]

@[simp] theorem dataSet_parallel (s : State) : (dataSet s).parallel =
    { s.parallel with
      d0 := ⟨s.parallel.d0.dir, s.wdata.getLsbD 0⟩, d1 := ⟨s.parallel.d1.dir, s.wdata.getLsbD 1⟩
      d2 := ⟨s.parallel.d2.dir, s.wdata.getLsbD 2⟩, d3 := ⟨s.parallel.d3.dir, s.wdata.getLsbD 3⟩
      d4 := ⟨s.parallel.d4.dir, s.wdata.getLsbD 4⟩, d5 := ⟨s.parallel.d5.dir, s.wdata.getLsbD 5⟩
      d6 := ⟨s.parallel.d6.dir, s.wdata.getLsbD 6⟩, d7 := ⟨s.parallel.d7.dir, s.wdata.getLsbD 7⟩ } := by
  simp [dataSet, dataLines, ParallelLines.set, ParallelLines.get]

@[simp] theorem dataMode_log (d : Dir) (s : State) : (dataMode d s).log = (dataModeEvents d).reverse ++ s.log := by
  simp [dataMode, dataModeEvents, dataLines]

@[simp] theorem dataSet_log (s : State) : (dataSet s).log =
    (dataLines.map fun p => Event.set (.par p.1) (s.wdata.getLsbD p.2)).reverse ++ s.log := by
  simp [dataSet, dataLines]

/-! ## The reference parallel chip and its lines -/

/-- `DIR[WE]` and `LAT[WE]` written: the chip sees the two levels (R66, R123). -/
theorem pinSet_we_chip (v : Bool) (s : State) : (pinSet (.par .we) v s).chip =
    (State.clockWrite s.parallel.we.drive (LineReg.drive ⟨s.parallel.we.dir, v⟩)
      { s with parallel := s.parallel.set .we ⟨s.parallel.we.dir, v⟩ }).chip := by
  simp [pinSet, State.putLine, State.putParallel, State.line, ParallelLines.get]

theorem pinMode_we_chip (d : Dir) (s : State) : (pinMode (.par .we) d s).chip =
    (State.clockWrite s.parallel.we.drive (LineReg.drive ⟨d, s.parallel.we.lat⟩)
      { s with parallel := s.parallel.set .we ⟨d, s.parallel.we.lat⟩ }).chip := by
  simp [pinMode, State.putLine, State.putParallel, State.line, ParallelLines.get]

/-- A chip without power sees no write pulse (R66). -/
theorem clockWrite_unpowered {s : State} (h : s.parallel.powered = false) (a b : Level) :
    s.clockWrite a b = s := by
  simp [State.clockWrite, h]

/-- While `WE` does not rise from low, the array is as it was (R66). -/
theorem clockWrite_mem_of_not_low {s : State} {a : Level} (h : a ≠ .low) (b : Level) :
    (s.clockWrite a b).chip.mem = s.chip.mem := by
  unfold State.clockWrite
  cases a <;> cases b <;> first | exact absurd rfl h | (repeat' split) <;> first | contradiction | rfl

end Sys2Proof.Machine
end

