-- ==== Sys2Proof/Laws/Exec.lean ====
section
/-! SUPPORT. The operation that each instruction is on a block of its variant, and where an instruction is refused. -/

namespace Sys2Proof.Machine

theorem perform_none {op : Op} {l : List (State → State)} {s : State} (h : s.stopAt op 1 = none) :
    perform op l s = .next (operate op l s) := by simp only [perform, h]

/-- Loading the operands changes nothing that a refusal depends on. -/
@[simp] theorem stopAt_loadOperands (i : Instr) (s : State) (op : Op) (k : Nat) :
    (loadOperands i s).stopAt op k = s.stopAt op k := by cases i <;> rfl

/-- An instruction on a block of its variant is its operation, or refused (R83, R137). -/
theorem exec_own {i : Instr} {s : State} (h : s.params.variant = i.variant) :
    exec i s = perform i.op (stepsOf i.variant i.op) (loadOperands i s) := by
  cases i <;> exact if_pos h

/-- An instruction on a block of its variant that is not refused completes (R137). -/
theorem exec_of_stopAt {i : Instr} {s : State} (h : s.params.variant = i.variant) (hs : s.stopAt i.op 1 = none) :
    exec i s = .next (operate i.op (stepsOf i.variant i.op) (loadOperands i s)) := by
  rw [exec_own h, perform_none (by rw [stopAt_loadOperands, hs])]

/-- Where an operation is refused at its start: never a serial setup or init, nor a parallel setup or disable; a serial readByte or
writeByte on a transport that is not started, a serial disable that would stop one, a parallel init, readByte or writeByte under
contention. -/
theorem stopAt_serial {s : State} (h : s.params.variant = .serial) {op : Op} (ho : op = .setup ∨ op = .init) :
    s.stopAt op 1 = none := by
  rcases ho with rfl | rfl <;> simp [State.stopAt, h]

theorem stopAt_bus {s : State} (h : s.params.variant = .serial) {op : Op} (ho : op = .read ∨ op = .write) :
    s.stopAt op 1 = if s.transport.on then none else some .busNotStarted := by
  rcases ho with rfl | rfl <;> cases hb : s.transport.on <;> simp [State.stopAt, h, hb]

theorem stopAt_disable {s : State} (hu : s.unsafeShutdown = false) (h : s.params.variant = .serial) (k : Nat) :
    s.stopAt .disable k = none := by simp [State.stopAt, h, hu]

theorem stopAt_parallel {s : State} (h : s.params.variant = .parallel) {op : Op} (ho : op = .setup ∨ op = .disable) (k : Nat) :
    s.stopAt op k = none := by
  rcases ho with rfl | rfl <;> simp [State.stopAt, h]

/-- Contention is there already only where `OE` is an output and low, and the chip powered (R65, R222). -/
theorem contended_le {s : State} (h : s.contended = true) :
    s.initContends = true ∧ s.readContends = true ∧ s.writeContends = true := by
  simp only [State.contended, State.initContends, State.readContends, State.writeContends, Bool.and_eq_true,
    decide_eq_true_eq] at *
  obtain ⟨⟨⟨hp, hw⟩, ho⟩, hd⟩ := h
  have hoe : s.parallel.oe.dir = .output ∧ s.parallel.oe.lat = false := by
    unfold LineReg.drive at ho
    cases hl : s.parallel.oe.lat <;> split at ho <;> simp_all [Level.ofBool]
  have hpw : s.parallel.pwren.dir = .output := by
    simp only [ParallelLines.powered, decide_eq_true_eq] at hw
    rw [hw]
  exact ⟨⟨⟨⟨hp, hpw⟩, by rw [hoe.2]; rfl⟩, hd⟩, ⟨⟨⟨hp, hw⟩, hoe.1⟩, hd⟩, ⟨hp, hw⟩, ho⟩

theorem stopAt_init {s : State} (h : s.params.variant = .parallel) :
    s.stopAt .init 1 = if s.initContends then some .busContention else none := by
  cases hc : s.contended
  · simp [State.stopAt, h, hc]
  · simp [State.stopAt, h, hc, (contended_le hc).1]

theorem stopAt_read {s : State} (h : s.params.variant = .parallel) :
    s.stopAt .read 1 = if s.readContends then some .busContention else none := by
  cases hc : s.contended
  · simp [State.stopAt, h, hc]
  · simp [State.stopAt, h, hc, (contended_le hc).2.1]

theorem stopAt_write {s : State} (h : s.params.variant = .parallel) :
    s.stopAt .write 1 = if s.writeContends then some .busContention else none := by
  cases hc : s.contended
  · simp [State.stopAt, h, hc]
  · simp [State.stopAt, h, hc, (contended_le hc).2.2]

/-- In `Active_P` no readByte and no writeByte meets contention (R39, R181 (a)). -/
theorem activeP_calm {s : State} (h : s.activeP = true) : s.readContends = false ∧ s.writeContends = false := by
  simp only [State.activeP, ParallelLines.active, Bool.and_eq_true, decide_eq_true_eq] at h
  obtain ⟨⟨⟨⟨⟨⟨⟨-, -⟩, ho⟩, -⟩, -⟩, -⟩, hd⟩, -⟩ := h
  simp [State.readContends, State.writeContends, hd, ho, LineReg.drive, Level.ofBool]

/-- On a block on which setup has run no init, readByte or writeByte meets contention between operations (R181 (a)). -/
theorem ok_calm {s : State} (h : s.parallel.ok = true) :
    s.initContends = false ∧ s.readContends = false ∧ s.writeContends = false := by
  simp only [ParallelLines.ok, LineReg.onlyDriven, Bool.and_eq_true, Bool.or_eq_true, decide_eq_true_eq] at h
  obtain ⟨⟨⟨-, hd⟩, -⟩, ho⟩ := h
  refine ⟨by simp [State.initContends, hd], by simp [State.readContends, hd], ?_⟩
  rcases ho with ho | ho
  · simp [State.writeContends, LineReg.drive, ho]
  · unfold State.writeContends LineReg.drive
    cases s.parallel.oe.dir <;> simp [ho, Level.ofBool]

theorem exec_sSetup {s : State} (h : s.params.variant = .serial) :
    exec .sSetup s = .next (operate .setup sSetupSteps s) := exec_of_stopAt h (stopAt_serial h (.inl rfl))

theorem exec_sInit {s : State} (h : s.params.variant = .serial) :
    exec .sInit s = .next (operate .init sInitSteps s) := exec_of_stopAt h (stopAt_serial h (.inr rfl))

theorem exec_sRead {a : Addr} {s : State} (h : s.params.variant = .serial) (hb : s.transport.on = true) :
    exec (.sRead a) s = .next (operate .read sReadSteps (setAddr a s)) :=
  exec_of_stopAt h ((stopAt_bus h (.inl rfl)).trans (by rw [hb]; rfl))

theorem exec_sWrite {a : Addr} {x : Byte} {s : State} (h : s.params.variant = .serial) (hb : s.transport.on = true) :
    exec (.sWrite a x) s = .next (operate .write sWriteSteps (setWdata x (setAddr a s))) :=
  exec_of_stopAt h ((stopAt_bus h (.inr rfl)).trans (by rw [hb]; rfl))

theorem exec_sDisable {s : State} (h : s.params.variant = .serial) (hu : s.unsafeShutdown = false) :
    exec .sDisable s = .next (operate .disable sDisableSteps s) := exec_of_stopAt h (stopAt_disable hu h 1)

theorem exec_pSetup {s : State} (h : s.params.variant = .parallel) :
    exec .pSetup s = .next (operate .setup pSetupSteps s) :=
  exec_of_stopAt h (stopAt_parallel h (.inl rfl) 1)

theorem exec_pInit {s : State} (h : s.params.variant = .parallel) (hc : s.initContends = false) :
    exec .pInit s = .next (operate .init pInitSteps s) :=
  exec_of_stopAt h ((stopAt_init h).trans (by simp [hc]))

theorem exec_pRead {a : Addr} {s : State} (h : s.params.variant = .parallel) (hc : s.readContends = false) :
    exec (.pRead a) s = .next (operate .read pReadSteps (setAddr a s)) :=
  exec_of_stopAt h ((stopAt_read h).trans (by simp [hc]))

theorem exec_pWrite {a : Addr} {x : Byte} {s : State} (h : s.params.variant = .parallel) (hc : s.writeContends = false) :
    exec (.pWrite a x) s = .next (operate .write pWriteSteps (setWdata x (setAddr a s))) :=
  exec_of_stopAt h ((stopAt_write h).trans (by simp [hc]))

theorem exec_pDisable {s : State} (h : s.params.variant = .parallel) :
    exec .pDisable s = .next (operate .disable pDisableSteps s) :=
  exec_of_stopAt h (stopAt_parallel h (.inr rfl) 1)

/-- Where an instruction has a next state, the block is of its variant, the operation is not refused, and the state is that of
the whole operation. -/
theorem exec_next {i : Instr} {s t : State} (h : exec i s = .next t) :
    s.params.variant = i.variant ∧ s.stopAt i.op 1 = none ∧ t = operate i.op (stepsOf i.variant i.op) (loadOperands i s) := by
  have hv : s.params.variant = i.variant := by
    by_contra hne
    have hr : exec i s = .refused .otherVariant := by cases i <;> exact if_neg hne
    rw [hr] at h
    cases h
  rw [exec_own hv, perform, stopAt_loadOperands] at h
  cases hs : s.stopAt i.op 1 with
  | some r => rw [hs] at h; cases h
  | none => rw [hs] at h; exact ⟨hv, rfl, (Host.Outcome.next.inj h).symm⟩

/-- The steps of an operation in two parts (R24). -/
theorem runSteps_append (op : Op) (l r : List (State → State)) (k : Nat) (s : State) :
    runSteps op (l ++ r) k s = runSteps op r (k + l.length) (runSteps op l k s) := by
  induction l generalizing k s with
  | nil => rfl
  | cons f l ih =>
    simp only [List.cons_append, runSteps, ih, List.length_cons]
    congr 1
    omega

/-- What the steps keep, an operation's steps run in order keep. -/
theorem runSteps_keeps {P : State → Prop} (op : Op) (l : List (State → State))
    (hseq : ∀ (s : State) (q : Seq), P s → P (atSeq q s)) (h : ∀ f ∈ l, ∀ s, P s → P (f s)) (k : Nat)
    {s : State} (hs : P s) : P (runSteps op l k s) := by
  induction l generalizing k s with
  | nil => exact hs
  | cons f l ih =>
    exact ih (fun g hg => h g (List.mem_cons_of_mem _ hg)) (k + 1) (hseq _ _ (h f List.mem_cons_self s hs))

end Sys2Proof.Machine
end

