-- ==== Sys2Proof/Laws/Serial.lean ====
section
/-! SUPPORT. The serial chip and the serial bus (spec/20_memory.md R67 to R70): on what its responses depend, and what a bus
write and a bus request do to it. -/

namespace Sys2Proof.Machine

/-! ## On what a response depends -/

/-- A response depends on the transport, the parameters, the serial lines, the deadlines and, for a floating line, the index
of the next free value. -/
theorem responds_congr {s t : State} (dev : DevAddr) (h1 : t.transport.on = s.transport.on) (h2 : t.params = s.params)
    (h3 : t.serial = s.serial) (h4 : t.deadlinesPast = s.deadlinesPast) (h5 : t.draws = s.draws) :
    t.responds dev = s.responds dev := by
  simp only [State.responds, State.selected, State.observe, State.eff, h1, h2, h3, h4, h5]

@[simp] theorem responds_atSeq (dev : DevAddr) (q : Seq) (s : State) : (atSeq q s).responds dev = s.responds dev := (rfl)
@[simp] theorem responds_accept (dev : DevAddr) (op : Op) (s : State) : (accept op s).responds dev = s.responds dev := (rfl)
@[simp] theorem responds_setAddr (dev : DevAddr) (a : Addr) (s : State) : (setAddr a s).responds dev = s.responds dev := (rfl)
@[simp] theorem responds_setWdata (dev : DevAddr) (x : Byte) (s : State) :
    (setWdata x s).responds dev = s.responds dev := (rfl)

@[simp] theorem requestAnswer_atSeq (dev : DevAddr) (q : Seq) (s : State) :
    (atSeq q s).requestAnswer dev = s.requestAnswer dev := (rfl)

@[simp] theorem resultsDefined_setAddr (a : Addr) (s : State) : (setAddr a s).resultsDefined = s.resultsDefined := (rfl)
@[simp] theorem resultsDefined_setWdata (x : Byte) (s : State) : (setWdata x s).resultsDefined = s.resultsDefined := (rfl)

/-- In `Active_S` every line the serial chip sees is driven, so a response does not depend on a free value (R38, R67). -/
theorem activeS_responds {s : State} (h : s.activeS = true) (dev : DevAddr) :
    s.responds dev = (s.transport.on && s.params.present && s.deadlinesPast && decide (dev = devAddr s.params)) := by
  simp only [State.activeS, Bool.and_eq_true, decide_eq_true_eq] at h
  obtain ⟨⟨⟨⟨⟨-, hp⟩, -⟩, h0⟩, h1⟩, h2⟩ := h
  simp [State.responds, State.selected, State.observe, State.eff, SerialLines.get, SerialLines.powered, LineReg.drive,
    Level.ofBool, hp, h0, h1, h2]

/-- A chip whose deadlines are past stays so while nothing but time changes (R64). -/
theorem deadlinesPast_later {s t : State} (h : s.deadlinesPast = true) (hr : t.chip.rdyAt = s.chip.rdyAt)
    (hw : t.chip.wbusyUntil ≤ t.now) (hn : s.now ≤ t.now) : t.deadlinesPast = true := by
  unfold State.deadlinesPast at *
  rw [hr]
  split
  · simp_all
  · rename_i d hd
    simp only [hd, Bool.and_eq_true, decide_eq_true_eq] at h
    simp only [Bool.and_eq_true, decide_eq_true_eq]
    exact ⟨Nat.le_trans h.1 hn, hw⟩

/-- The end of a chip's write cycle is past when its deadlines are. -/
theorem deadlinesPast_wbusy {s : State} (h : s.deadlinesPast = true) : s.chip.wbusyUntil ≤ s.now := by
  unfold State.deadlinesPast at h
  split at h
  · cases h
  · simp only [Bool.and_eq_true, decide_eq_true_eq] at h
    exact h.2

/-! ## The answer of a bus request -/

/-- A bus request yields at most one byte (R119). -/
theorem requestAnswer_length (dev : DevAddr) (s : State) : (s.requestAnswer dev).length ≤ 1 := by
  unfold State.requestAnswer
  split
  · split <;> simp
  · cases Config.freeAnswer s.draws <;> simp

/-- A responding chip answers with the byte at its pointer (R70). -/
theorem requestAnswer_responds {dev : DevAddr} {s : State} (h : s.responds dev = true) :
    s.requestAnswer dev = [Memory.read s.chip.mem s.chip.ptr] := by
  have ht : s.transport.on = true := by
    simp only [State.responds, Bool.and_eq_true] at h
    exact h.1.1.1.1.1
  simp [State.requestAnswer, ht, h]

/-- No chip, no answer (R70, R74). -/
theorem requestAnswer_silent {dev : DevAddr} {s : State} (ht : s.transport.on = true) (h : s.responds dev = false) :
    s.requestAnswer dev = [] := by
  simp [State.requestAnswer, ht, h]

@[simp] theorem answerByte_eq (p : Params) (l : List Byte) : answerByte p l = l.headD p.constants.readSentinel := by cases l <;> rfl

/-! ## A bus write -/

/-- A bus write draws one free value, whatever it carries. -/
@[simp] theorem busWrite_draws (dev : DevAddr) (bs : List Byte) (stop : Bool) (s : State) :
    (busWrite dev bs stop s).draws = s.draws + 1 := by
  simp only [busWrite]; split <;> simp

/-- A chip that does not respond takes nothing (R67). -/
theorem busWrite_chip_silent {dev : DevAddr} {s : State} (h : s.responds dev = false) (bs : List Byte) (stop : Bool) :
    (busWrite dev bs stop s).chip = s.chip := by
  simp [busWrite, h]

/-- The address frame at a responding chip sets its pointer (R68). -/
theorem busWrite_address_chip {dev : DevAddr} {s : State} (h : s.responds dev = true) (a : Addr) (stop : Bool) :
    (busWrite dev (addressFrame a) stop s).chip = { s.chip with ptr := cell s.params a } := by
  simp [busWrite, h, addressFrame, State.takeFrame, joinBytes_hi_lo]

/-- The address frame never changes the array (R68). -/
@[simp] theorem busWrite_address_mem (dev : DevAddr) (a : Addr) (stop : Bool) (s : State) :
    (busWrite dev (addressFrame a) stop s).chip.mem = s.chip.mem := by
  cases h : s.responds dev
  · rw [busWrite_chip_silent h]
  · rw [busWrite_address_chip h]

/-- The write frame at a responding chip with write-protect driven low: stored, pointer set, a write cycle begun (R69). -/
theorem busWrite_write_chip {dev : DevAddr} {s : State} (h : s.responds dev = true) (hw : s.serial.wp = ⟨.output, false⟩)
    (a : Addr) (x : Byte) (stop : Bool) :
    (busWrite dev (writeFrame a x) stop s).chip =
      { s.chip with
        mem := Memory.write s.chip.mem (cell s.params a) x, ptr := cell s.params a
        wbusyUntil := s.now + s.slack.headD 0 + s.params.tWcSer } := by
  simp [busWrite, h, writeFrame, State.takeFrame, State.storeByte, State.observe, State.eff, SerialLines.get, hw,
    LineReg.drive, Level.ofBool, joinBytes_hi_lo]

/-- The write frame at a responding chip with write-protect driven high: only the pointer is set (R69). -/
theorem busWrite_protected_chip {dev : DevAddr} {s : State} (h : s.responds dev = true)
    (hw : s.serial.wp = ⟨.output, true⟩) (a : Addr) (x : Byte) (stop : Bool) :
    (busWrite dev (writeFrame a x) stop s).chip = { s.chip with ptr := cell s.params a } := by
  simp [busWrite, h, writeFrame, State.takeFrame, State.storeByte, State.observe, State.eff, SerialLines.get, hw,
    LineReg.drive, Level.ofBool, joinBytes_hi_lo]

/-- The write frame changes no cell but the one it addresses (R69). -/
theorem busWrite_write_other {dev : DevAddr} {a b : Addr} {s : State} (h : cell s.params b ≠ cell s.params a) (x : Byte)
    (stop : Bool) : (busWrite dev (writeFrame a x) stop s).memRead b = s.memRead b := by
  have hp : (busWrite dev (writeFrame a x) stop s).params = s.params := by simp
  cases hr : s.responds dev
  · simp only [State.memRead, busWrite_chip_silent hr, hp]
  · simp only [busWrite, hr, if_true, writeFrame, State.takeFrame, State.storeByte, joinBytes_hi_lo]
    split
    · rfl
    · exact Memory.read_write_other h

end Sys2Proof.Machine
end

