-- ==== Sys2Proof/Laws/Parallel.lean ====
section
/-! SUPPORT. The parallel chip (spec/20_memory.md R64 to R66): what a write pulse can change, and what the chip shows on the
data lines. -/

namespace Sys2Proof.Machine

/-- All eight data lines are in the direction `d`. -/
theorem dataAll_iff {b : ParallelLines} {d : Dir} : b.dataAll d = true ↔
    b.d0.dir = d ∧ b.d1.dir = d ∧ b.d2.dir = d ∧ b.d3.dir = d ∧ b.d4.dir = d ∧ b.d5.dir = d ∧ b.d6.dir = d
      ∧ b.d7.dir = d := by
  unfold ParallelLines.dataAll dataLines
  simp only [List.all_cons, List.all_nil, Bool.and_true, Bool.and_eq_true]
  simp only [ParallelLines.get]
  exact ⟨fun ⟨h0, h1, h2, h3, h4, h5, h6, h7⟩ => ⟨of_decide_eq_true h0, of_decide_eq_true h1, of_decide_eq_true h2,
      of_decide_eq_true h3, of_decide_eq_true h4, of_decide_eq_true h5, of_decide_eq_true h6, of_decide_eq_true h7⟩,
    fun ⟨h0, h1, h2, h3, h4, h5, h6, h7⟩ => ⟨decide_eq_true h0, decide_eq_true h1, decide_eq_true h2,
      decide_eq_true h3, decide_eq_true h4, decide_eq_true h5, decide_eq_true h6, decide_eq_true h7⟩⟩

/-! ## Write pulses -/

/-- The end of a write pulse changes no cell but the one at the address it takes (R66). -/
theorem endPulse_other {s : State} {c : Addr} (h : cell s.params c ≠ cell s.params s.pulseAddr) (k : Bool) :
    (s.endPulse k).memRead c = s.memRead c := by
  unfold State.endPulse
  split
  · rfl
  · exact Memory.read_write_other h

/-- A change of `WE` changes no cell but the one at the address its pulse would take (R66). -/
theorem clockWrite_other {s : State} {c : Addr} (h : cell s.params c ≠ cell s.params s.pulseAddr) (a b : Level) :
    (s.clockWrite a b).memRead c = s.memRead c := by
  unfold State.clockWrite
  repeat' split
  all_goals first | rfl | exact endPulse_other h _

/-- Writing `LAT[WE]` changes no cell but the one at the address the pulse would take (R66). -/
theorem pinSet_we_other {s : State} {c : Addr} (h : cell s.params c ≠ cell s.params s.pulseAddr) (v : Bool) :
    (pinSet (.par .we) v s).memRead c = s.memRead c := by
  have hp : (pinSet (.par .we) v s).params = s.params := by simp
  unfold State.memRead
  rw [hp, pinSet_we_chip]
  have h' := clockWrite_other (s := { s with parallel := s.parallel.set .we ⟨s.parallel.we.dir, v⟩ }) h
    s.parallel.we.drive (LineReg.drive ⟨s.parallel.we.dir, v⟩)
  rwa [State.memRead, clockWrite_params] at h'

/-- Making `WE` an output never ends a write pulse (R66). -/
theorem pinMode_we_output_mem (s : State) : (pinMode (.par .we) .output s).chip.mem = s.chip.mem := by
  rw [pinMode_we_chip]
  cases hd : s.parallel.we.dir <;> cases hl : s.parallel.we.lat <;>
    simp only [State.clockWrite, LineReg.drive, hd, hl, Level.ofBool] <;> (repeat' split) <;> simp_all

/-- Writing 1 to a `WE` that is not driven low changes nothing in the array (R66). -/
theorem pinSet_we_high_mem {s : State} (h : s.parallel.we.drive ≠ .low) (v : Bool) :
    (pinSet (.par .we) v s).chip.mem = s.chip.mem := by
  rw [pinSet_we_chip, clockWrite_mem_of_not_low h]

/-- A chip without power loses nothing by a change of `WE` (R66). -/
theorem pinMode_we_mem_off {s : State} (h : s.parallel.powered = false) (d : Dir) :
    (pinMode (.par .we) d s).chip.mem = s.chip.mem := by
  rw [pinMode_we_chip, clockWrite_unpowered]
  exact h

/-- `WE` falls at a powered chip with `OE` high: a write pulse begins (R66). -/
theorem pinSet_we_fall {s : State} (hc : s.params.present = true) (hp : s.parallel.powered = true)
    (hw : s.parallel.we = ⟨.output, true⟩) (ho : s.parallel.oe.drive = .high) :
    (pinSet (.par .we) false s).chip = { s.chip with pulse := .begun } := by
  have hp' : (s.parallel.set .we ⟨.output, false⟩).powered = true := hp
  have ho' : (s.parallel.set .we ⟨.output, false⟩).oe.drive = .high := ho
  have d1 : LineReg.drive ⟨.output, true⟩ = .high := rfl
  have d2 : LineReg.drive ⟨.output, false⟩ = .low := rfl
  rw [pinSet_we_chip, hw]
  simp [State.clockWrite, d1, d2, hc, hp', ho']

/-- A write pulse ends at a ready chip with every pin driven: the byte on the data lines goes to the cell at `APIN` (R66). -/
theorem pinSet_we_rise {s : State} (hr : s.parallelReady = true) (ha : s.apinDriven = true)
    (hd : s.parallel.dataAll .output = true) (hw : s.parallel.we = ⟨.output, false⟩) (ho : s.parallel.oe.drive = .high)
    (hb : s.chip.pulse = .begun) :
    (pinSet (.par .we) true s).chip =
      { s.chip with
        mem := Memory.write s.chip.mem (cell s.params s.sr) s.parallel.dataByte
        wbusyUntil := s.now + s.params.tWcPar, pulse := .idle } := by
  have hn : s.beforeReady = false := by
    simp only [State.parallelReady, Bool.and_eq_true, State.deadlinesPast] at hr
    have h := hr.2
    unfold State.beforeReady
    split at h
    · cases h
    · rename_i t ht
      simp only [Bool.and_eq_true, decide_eq_true_eq] at h
      simp [h.1]
  have hr' := hr
  simp only [State.parallelReady, Bool.and_eq_true] at hr'
  rw [pinSet_we_chip, hw]
  have e1 : ({ s with parallel := s.parallel.set .we ⟨.output, true⟩ } : State).parallelReady = true := hr
  have e2 : ({ s with parallel := s.parallel.set .we ⟨.output, true⟩ } : State).apinDriven = true := ha
  have e3 : ({ s with parallel := s.parallel.set .we ⟨.output, true⟩ } : State).beforeReady = false := hn
  have e4 : (s.parallel.set .we ⟨.output, true⟩).oe.drive = .high := ho
  have e5 : (s.parallel.set .we ⟨.output, true⟩).powered = true := hr'.1.2
  have e6 : (s.parallel.set .we ⟨.output, true⟩).dataAll .output = true := hd
  have e7 : (s.parallel.set .we ⟨.output, true⟩).dataByte = s.parallel.dataByte := rfl
  have d1 : LineReg.drive ⟨.output, true⟩ = .high := rfl
  have d2 : LineReg.drive ⟨.output, false⟩ = .low := rfl
  simp [State.clockWrite, d1, d2, hr'.1.1, e4, e5, hb, State.endPulse, State.pulseAddr, e1, e2, e3, e6, e7]

/-- A change of `WE` leaves the power-up time alone. -/
@[simp] theorem clockWrite_rdyAt (a b : Level) (s : State) : (s.clockWrite a b).chip.rdyAt = s.chip.rdyAt := by
  unfold State.clockWrite
  repeat' split
  all_goals first | rfl | (simp only [setPulse_chip]; unfold State.endPulse; split <;> rfl)

/-- The time of the last fall of `LAT[PWREN]` is never later than now (R39). -/
theorem putParallel_pwrenLowAt_le {s : State} (h : s.pwrenLowAt ≤ s.now) (l : PLine) (r : LineReg) :
    (s.putParallel l r).pwrenLowAt ≤ s.now := by
  cases l <;> simp [State.putParallel, h]
  split
  · exact Nat.le_refl _
  · exact h

theorem pinSetPar_pwrenLowAt_le {s : State} (h : s.pwrenLowAt ≤ s.now) (l : PLine) (v : Bool) :
    (pinSet (.par l) v s).pwrenLowAt ≤ s.now := putParallel_pwrenLowAt_le h l _

/-! ## What the chip shows on the data lines -/

/-- With the chip driving, `PinGet(Di)` gives bit `i` of the byte at `APIN` (R65, R112). -/
theorem pinLevel_data {s : State} (h : s.parallelDrives = true) {l : PLine} {i : Nat} (hl : (l, i) ∈ dataLines) :
    pinLevel (.par l) s = (s.memRead s.sr).getLsbD i := by
  have hin : (s.parallel.get l).dir = .input := by
    simp only [State.parallelDrives, Bool.and_eq_true, ParallelLines.dataAll, List.all_eq_true] at h
    simpa using h.1.2 (l, i) hl
  have hi : l.dataIndex = some i := by
    have hall : ∀ p ∈ dataLines, p.1.dataIndex = some p.2 := by decide
    exact hall _ hl
  simp only [pinLevel, State.observe, reduceCtorEq, if_false, State.eff, hi, hin, h, if_true]
  cases (s.memRead s.sr).getLsbD i <;> rfl

/-- `PinGet` of a parallel output returns its latch (R112, R173). -/
theorem pinLevel_output {s : State} {l : PLine} (h : (s.parallel.get l).dir = .output) :
    pinLevel (.par l) s = (s.parallel.get l).lat := if_pos h

/-- A chip that drives goes on driving while nothing but time changes (R64, R65). -/
theorem parallelDrives_later {s t : State} (h : s.parallelDrives = true) (hp : t.params = s.params)
    (hl : t.parallel = s.parallel) (hc : t.chip = s.chip) (hn : s.now ≤ t.now) : t.parallelDrives = true := by
  simp only [State.parallelDrives, State.parallelReady, State.apinDriven, Bool.and_eq_true] at h ⊢
  have hd := deadlinesPast_later (t := t) h.1.1.1.1.2 (by rw [hc])
    (by rw [hc]; exact Nat.le_trans (deadlinesPast_wbusy h.1.1.1.1.2) hn) hn
  rw [hp, hl, hd]
  exact ⟨⟨⟨⟨⟨h.1.1.1.1.1, rfl⟩, h.1.1.1.2⟩, h.1.1.2⟩, h.1.2⟩, h.2⟩

/-- Sampling a list of data lines appends their levels, one event each (R112, R173). -/
theorem foldl_pinGet (l : List (PLine × Nat)) (s : State) :
    ∃ g : List Bool, g.length = l.length
      ∧ (l.foldl (fun s p => pinGet (.par p.1) s) s).sampled = s.sampled ++ g
      ∧ (l.foldl (fun s p => pinGet (.par p.1) s) s).log =
          (List.zipWith (fun p v => Event.get (.par p.1) v) l g).reverse ++ s.log
      ∧ (∀ (i : Nat) (p : PLine × Nat), l[i]? = some p → (s.parallel.get p.1).dir = .output → g[i]? = some (s.parallel.get p.1).lat)
      ∧ (s.parallelDrives = true → (∀ p ∈ l, p ∈ dataLines) → g = l.map fun p => (s.memRead s.sr).getLsbD p.2) := by
  induction l generalizing s with
  | nil => exact ⟨[], rfl, by simp, rfl, fun _ _ h => by simp at h, fun _ _ => rfl⟩
  | cons p l ih =>
    obtain ⟨g, h1, h2, h3, h5, h4⟩ := ih (pinGet (.par p.1) s)
    refine ⟨pinLevel (.par p.1) s :: g, by simp [h1], by simp [h2], by simp [h3], ?_, fun hd hm => ?_⟩
    · rintro (_ | i) q hq ho
      · obtain rfl : p = q := by simpa using hq
        simp [pinLevel_output ho]
      · have := h5 i q hq (by simpa using ho)
        simpa using this
    rw [List.map_cons, pinLevel_data hd (hm p List.mem_cons_self)]
    rw [h4 (parallelDrives_later hd (by simp) (by simp) (by simp) (by simp)) fun q hq => hm q (List.mem_cons_of_mem _ hq)]
    simp [State.memRead]

/-- The eight samples of readByte (R173 step 4): of an output line its latch, else what the chip or nothing drives. -/
theorem dataGet_sampled (s : State) :
    ∃ g : List Bool, g.length = 8 ∧ (dataGet s).sampled = g
      ∧ (dataGet s).log = (List.zipWith (fun p v => Event.get (.par p.1) v) dataLines g).reverse ++ s.log
      ∧ (∀ p ∈ dataLines, (s.parallel.get p.1).dir = .output → g.getD p.2 false = (s.parallel.get p.1).lat)
      ∧ (s.parallelDrives = true → g = dataBits (s.memRead s.sr)) := by
  obtain ⟨g, h1, h2, h3, h5, h4⟩ := foldl_pinGet dataLines { s with sampled := [] }
  refine ⟨g, h1, by simpa [dataGet] using h2, h3, fun p hp ho => ?_, fun h => (h4 h fun _ hp => hp).trans rfl⟩
  have hi : ∀ q ∈ dataLines, dataLines[q.2]? = some q := by decide
  rw [List.getD_eq_getElem?_getD, h5 p.2 p (hi p hp) ho]
  rfl

/-- Sampling takes no time of its own (R112, R113). -/
@[simp] theorem dataGet_now_le (s : State) : s.now ≤ (dataGet s).now := by
  simp only [dataGet, dataLines, List.foldl_cons, List.foldl_nil, pinGet_now]
  omega

end Sys2Proof.Machine
end

