-- ==== Sys2Proof/Laws/Closed.lean ====
section
/-! SUPPORT. What every micro-operation keeps, every step of the machine keeps: the induction over the steps of the ten
operations, once. -/

namespace Sys2Proof.Machine

/-- A property that acceptance, each micro-operation, each register write and the end of an operation keep. -/
structure Closed (P : State → Prop) : Prop where
  pinMode : ∀ l d s, P s → P (pinMode l d s)
  pinSet : ∀ l v s, P s → P (pinSet l v s)
  pinGet : ∀ l s, P s → P (pinGet l s)
  delayUs : ∀ n s, P s → P (delayUs n s)
  delayMs : ∀ n s, P s → P (delayMs n s)
  busBegin : ∀ r s, P s → P (busBegin r s)
  busEnd : ∀ s, P s → P (busEnd s)
  busWrite : ∀ d bs stop s, P s → P (busWrite d bs stop s)
  busRequest : ∀ d s, P s → P (busRequest d s)
  setStarted : ∀ v s, P s → P (setStarted v s)
  setRdata : ∀ v s, P s → P (setRdata v s)
  noSamples : ∀ s, P s → P { s with sampled := [] }
  atSeq : ∀ q s, P s → P (atSeq q s)
  loseEeprom : ∀ s, P s → P (loseEeprom s)
  setAddr : ∀ a s, P s → P (setAddr a s)
  setWdata : ∀ x s, P s → P (setWdata x s)
  accept : ∀ op s, P s → P (accept op s)
  setHost : ∀ ws s, P s → P { s with host := ws }

/-- What each round of a loop keeps, the loop keeps. -/
theorem foldl_closed {α : Type} {P : State → Prop} {f : State → α → State} (h : ∀ s a, P s → P (f s a)) (l : List α)
    {s : State} (hs : P s) : P (l.foldl f s) := by
  induction l generalizing s with
  | nil => exact hs
  | cons a l ih => exact ih (h _ _ hs)

section
variable {P : State → Prop} (c : Closed P)
include c

theorem closed_drive (l : Line) (v : Bool) (s : State) (h : P s) : P (drive l v s) := c.pinSet _ _ _ (c.pinMode _ _ _ h)

theorem closed_latch (a : Addr) (s : State) (h : P s) : P (latch a s) :=
  foldl_closed (fun _ _ h => c.pinSet _ _ _ (c.pinSet _ _ _ (c.pinSet _ _ _ h))) _ (c.pinSet _ _ _ h)

theorem closed_dataMode (d : Dir) (s : State) (h : P s) : P (dataMode d s) :=
  foldl_closed (fun _ _ h => c.pinMode _ _ _ h) _ h

theorem closed_dataSet (s : State) (h : P s) : P (dataSet s) := foldl_closed (fun _ _ h => c.pinSet _ _ _ h) _ h

theorem closed_dataGet (s : State) (h : P s) : P (dataGet s) :=
  foldl_closed (fun _ _ h => c.pinGet _ _ h) _ (c.noSamples _ h)

theorem closed_floatSerial (s : State) (h : P s) : P (floatSerial s) := foldl_closed (fun _ _ h => c.pinMode _ _ _ h) _ h

theorem closed_stopTransport (s : State) (h : P s) : P (stopTransport s) := by
  unfold stopTransport
  split
  · exact c.setStarted _ _ (c.busEnd _ h)
  · exact h

theorem closed_callSDisable (s : State) (h : P s) : P (callSDisable s) := by
  simp only [callSDisable, sDisableSteps, List.foldl_cons, List.foldl_nil]
  exact closed_floatSerial c _ (c.pinSet _ _ _ (c.pinSet _ _ _ (closed_stopTransport c _ h)))

theorem closed_callPDisable (s : State) (h : P s) : P (callPDisable s) := by
  simp only [callPDisable, pDisableSteps, List.foldl_cons, List.foldl_nil]
  exact closed_dataMode c _ _ (c.pinMode _ _ _ (c.pinMode _ _ _ (c.pinSet _ _ _ (c.pinSet _ _ _ h))))

/-- Every step of every operation keeps what the micro-operations keep. -/
theorem closed_stepsOf (v : Variant) (op : Op) : ∀ f ∈ stepsOf v op, ∀ s, P s → P (f s) := by
  cases v <;> cases op
  case serial.setup => exact List.forall_mem_cons.2 ⟨c.setStarted _, List.forall_mem_cons.2 ⟨closed_callSDisable c, nofun⟩⟩
  case serial.init =>
    simp only [stepsOf, sInitSteps, List.forall_mem_cons]
    exact ⟨closed_drive c _ _, closed_drive c _ _, closed_drive c _ _, closed_drive c _ _, closed_drive c _ _, fun s => c.busBegin _ s,
      c.setStarted _, nofun⟩
  case serial.read =>
    simp only [stepsOf, sReadSteps, List.forall_mem_cons]
    exact ⟨fun s => c.busWrite _ _ _ s, fun s => c.busRequest _ s, fun s => c.setRdata _ s, nofun⟩
  case serial.write =>
    simp only [stepsOf, sWriteSteps, List.forall_mem_cons]
    exact ⟨c.pinSet _ _, fun s => c.delayUs _ s, fun s => c.busWrite _ _ _ s, fun s => c.delayMs _ s, c.pinSet _ _, fun s => c.delayMs _ s, nofun⟩
  case serial.disable =>
    simp only [stepsOf, sDisableSteps, List.forall_mem_cons]
    exact ⟨closed_stopTransport c, c.pinSet _ _, c.pinSet _ _, closed_floatSerial c, nofun⟩
  case parallel.setup =>
    simp only [stepsOf, pSetupSteps, List.forall_mem_cons]
    exact ⟨c.pinMode _ _, c.pinMode _ _, c.pinMode _ _, c.pinMode _ _, closed_callPDisable c, nofun⟩
  case parallel.init =>
    simp only [stepsOf, pInitSteps, List.forall_mem_cons]
    exact ⟨c.pinSet _ _, closed_drive c _ _, closed_drive c _ _, c.pinSet _ _, fun s => c.delayMs _ s, nofun⟩
  case parallel.read =>
    simp only [stepsOf, pReadSteps, List.forall_mem_cons]
    exact ⟨fun s => closed_latch c _ s, c.pinSet _ _, fun s => c.delayUs _ s, closed_dataGet c, c.pinSet _ _, fun s => c.delayUs _ s,
      fun s => c.setRdata _ s, nofun⟩
  case parallel.write =>
    simp only [stepsOf, pWriteSteps, List.forall_mem_cons]
    exact ⟨fun s => closed_latch c _ s, closed_dataMode c _, closed_dataSet c, fun s => c.delayUs _ s, c.pinSet _ _, fun s => c.delayUs _ s,
      c.pinSet _ _, fun s => c.delayMs _ s, closed_dataMode c _, nofun⟩
  case parallel.disable =>
    simp only [stepsOf, pDisableSteps, List.forall_mem_cons]
    exact ⟨c.pinSet _ _, c.pinSet _ _, c.pinMode _ _, c.pinMode _ _, closed_dataMode c _, nofun⟩

theorem closed_finish (op : Op) (s : State) (h : P s) : P (finish op s) := by
  unfold finish
  cases op <;> first | exact c.atSeq _ _ h | (simp only []; split; exact c.atSeq _ _ h; exact c.loseEeprom _ (c.atSeq _ _ h))

/-- Every instruction that has a next state keeps what the micro-operations keep. -/
theorem closed_exec {i : Instr} {s t : State} (h : exec i s = .next t) (hs : P s) : P t := by
  obtain ⟨-, -, rfl⟩ := exec_next h
  refine closed_finish c _ _ (runSteps_keeps _ _ (fun s q h => c.atSeq q s h) (closed_stepsOf c _ _) _ (c.accept _ _ ?_))
  cases i <;> first | exact hs | exact c.setAddr _ _ hs | exact c.setWdata _ _ (c.setAddr _ _ hs)

/-- Every step of the machine keeps what the micro-operations keep. -/
theorem closed_step {s t : State} (h : step s = .next t) (hs : P s) : P t := by
  unfold step at h
  split at h
  · unfold awaitCommand at h
    split at h
    · exact (Host.Outcome.next.inj h) ▸ hs
    · unfold present at h
      split at h
      · exact closed_exec c h (c.setHost _ _ hs)
      · cases h
  · unfold resume at h
    split at h
    · cases h
    · refine (Host.Outcome.next.inj h) ▸ closed_finish c _ _ (runSteps_keeps _ _ (fun s q h => c.atSeq q s h)
        (fun f hf => closed_stepsOf c _ _ f (List.mem_of_mem_drop hf)) _ hs)

end

end Sys2Proof.Machine
end

