-- ==== Sys2Proof/Laws/PerInstr.lean ====
section
/-! SUPPORT. A statement about every instruction as syntax, one lemma per constructor: its canonical word's reserved bits are
zero and its other fields hold what the instruction says (spec/30_encoding.md R80 to R82). -/

namespace Sys2Proof.Laws.FieldsOfEncode

/-- The canonical word of the instruction, field by field (R80, R82). -/
def Statement (i : Instr) : Prop :=
  cmdZero (encode i) = 0#5 ∧ opOfCode (cmdOp (encode i)) = some i.op ∧ cmdAddress (encode i) = i.addressField
    ∧ cmdValue (encode i) = i.valueField

/-- The fields of any canonical word, once. -/
theorem of_op {i : Instr} (h : opOfCode (codeOfOp i.op) = some i.op) : Statement i := by
  simp [Statement, encode, h]

theorem sSetup : Statement .sSetup := of_op rfl
theorem sInit : Statement .sInit := of_op rfl
theorem sRead (address : Addr) : Statement (.sRead address) := of_op rfl
theorem sWrite (address : Addr) (value : Byte) : Statement (.sWrite address value) := of_op rfl
theorem sDisable : Statement .sDisable := of_op rfl
theorem pSetup : Statement .pSetup := of_op rfl
theorem pInit : Statement .pInit := of_op rfl
theorem pRead (address : Addr) : Statement (.pRead address) := of_op rfl
theorem pWrite (address : Addr) (value : Byte) : Statement (.pWrite address value) := of_op rfl
theorem pDisable : Statement .pDisable := of_op rfl

end Sys2Proof.Laws.FieldsOfEncode
end

