-- ==== Sys2Proof/Tests/Slice0.lean ====
section
/-! SUPPORT. Tests with expected results from spec/95_test_vectors.md (T and PROG numbers) or written out by hand from the
numbered rules, and, for every obligation that has hypotheses, a state and operands that meet them (the witness theorems). -/

namespace Sys2Proof.Tests

open Sys2Proof Sys2Proof.Machine

/-! ## Small states -/

/-- The reference parameters with the parallel strap. -/
def pPar : Params := { Params.reference with variant := .parallel }

/-- A line that is an output at `v`. -/
def out (v : Bool) : LineReg := ⟨.output, v⟩

/-- `Active_S` (R38) with a ready chip that holds the cells `m`. -/
def sAct (m : Memory) : State :=
  { State.reset with
    started := true
    serial := ⟨out false, out false, out false, out true, out true, .fresh, .fresh⟩
    transport := ⟨true, 400000, false⟩
    chip := ⟨m, some 0, 0, 0, .idle⟩ }

/-- `Active_P` (R39) with a ready chip that holds the cells `m`. -/
def pAct (m : Memory) : State :=
  { State.fresh pPar with
    parallel := ⟨.fresh, .fresh, .fresh, .fresh, .fresh, .fresh, .fresh, .fresh, out false, out false, out true, out true,
      out true, out false⟩
    chip := ⟨m, some 0, 0, 0, .idle⟩
    now := 100000 }

/-- The parallel block after setup, with both idle latches high (the start of PROG4 (b)). -/
def pSet : State :=
  { State.fresh pPar with
    parallel := ⟨.fresh, .fresh, .fresh, .fresh, .fresh, .fresh, .fresh, .fresh, out false, out false, out false,
      ⟨.input, true⟩, ⟨.input, true⟩, out true⟩ }

/-- The state an outcome goes on with satisfies `f`. -/
def nextHas (o : Host.Outcome State Fault Refusal) (f : State → Bool) : Bool :=
  match o with
  | .next t => f t
  | .fault _ => false
  | .refused _ => false

/-! ## WellFormed: what each check refuses -/

theorem test_wellFormed_otherVariant_serial : Instr.wellFormed .serial .pSetup = false := by decide
theorem test_wellFormed_otherVariant_parallel : Instr.wellFormed .parallel (.sWrite 0#16 0#8) = false := by decide
theorem test_wellFormed_readByte_range : (Call.readByte 65536).wellFormed = false := by decide
theorem test_wellFormed_writeByte_address_range : (Call.writeByte 65536 0).wellFormed = false := by decide
theorem test_wellFormed_writeByte_value_range : (Call.writeByte 0 256).wellFormed = false := by decide
theorem test_assemble_refuses_out_of_range :
    assemble (.readByte 65536) = none ∧ assemble (.writeByte 0 256) = none := by decide

/-! ## Decoding: every constructor, from words written out by R80 (T1, T2, T3) -/

theorem test_decode_sSetup : decode .serial 0b00000_001_0000000000000000_00000000#32 = .ok .sSetup := by decide
theorem test_decode_sInit : decode .serial 0b00000_010_0000000000000000_00000000#32 = .ok .sInit := by decide
theorem test_decode_sRead : decode .serial 0b00000_011_0001001000110100_00000000#32 = .ok (.sRead 0x1234#16) := by decide
theorem test_decode_sWrite :
    decode .serial 0b00000_100_0001001000110100_10101011#32 = .ok (.sWrite 0x1234#16 0xAB#8) := by decide
theorem test_decode_sDisable : decode .serial 0b00000_101_0000000000000000_00000000#32 = .ok .sDisable := by decide
theorem test_decode_pSetup : decode .parallel 0b00000_001_0000000000000000_00000000#32 = .ok .pSetup := by decide
theorem test_decode_pInit : decode .parallel 0b00000_010_0000000000000000_00000000#32 = .ok .pInit := by decide
theorem test_decode_pRead :
    decode .parallel 0b00000_011_1111111111111111_00000000#32 = .ok (.pRead 0xFFFF#16) := by decide
theorem test_decode_pWrite :
    decode .parallel 0b00000_100_1000000000000001_01011010#32 = .ok (.pWrite 0x8001#16 0x5A#8) := by decide
theorem test_decode_pDisable : decode .parallel 0b00000_101_0000000000000000_00000000#32 = .ok .pDisable := by decide

/-- T3: ignored fields. -/
theorem test_decode_ignored_fields :
    decode .serial 0x03123477#32 = .ok (.sRead 0x1234#16) ∧ decode .parallel 0x01BEEF55#32 = .ok .pSetup
      ∧ decode .serial 0x05FFFFFF#32 = .ok .sDisable := by decide

/-- T2: reserved words. -/
theorem test_decode_reserved :
    decode .serial 0x00000000#32 = .error .reservedOp ∧ decode .parallel 0x06000000#32 = .error .reservedOp
      ∧ decode .serial 0x07123456#32 = .error .reservedOp ∧ decode .parallel 0x0B000000#32 = .error .zeroFieldSet
      ∧ decode .serial 0x84000000#32 = .error .zeroFieldSet ∧ decode .parallel 0xFFFFFFFF#32 = .error .zeroFieldSet := by
  decide

/-- T1: the canonical words. -/
theorem test_assemble_canonical :
    assemble .setup = some 0x01000000#32 ∧ assemble (.readByte 0xFFFF) = some 0x03FFFF00#32
      ∧ assemble (.writeByte 0x1234 0xAB) = some 0x041234AB#32 ∧ encode .pDisable = 0x05000000#32 := by decide

theorem test_decodeTableWord : decodeTableWord 32 0x04000000 = some (.sWrite 0#16 0#8) := by decide

/-! ## Operands (T4, T12, T14) -/

theorem test_address_split : hiByte 0x1234#16 = 0x12#8 ∧ loByte 0x1234#16 = 0x34#8 ∧ hiByte 0x8001#16 = 0x80#8
    ∧ loByte 0xFF00#16 = 0x00#8 := by decide

theorem test_shift_stream : shiftStream 0xA5C3#16 =
    [true, false, true, false, false, true, false, true, true, true, false, false, false, false, true, true] := by decide

theorem test_data_bits : dataBits 0xAB#8 = [true, true, false, true, false, true, false, true]
    ∧ assembleByte [false, true, false, true, true, false, true, false] = 0x5A#8 := by decide

theorem test_device_address : devAddr Params.reference = 0x50#7 := by decide

/-- T21: `ADDR_BITS = 15`. -/
theorem test_cell_aliases : cell { Params.reference with addrBits := 15 } 0x8005#16 = 5 := by decide

/-! ## The serial operations -/

/-- T5. -/
theorem test_sSetup_trace : nextHas (exec .sSetup State.reset) (fun t => decide (t.trace = sDisableEvents) && t.disabledS) =
    true := by decide

/-- T23: an adverse reset draw. -/
theorem test_sSetup_adverse : nextHas
    (exec .sSetup { sAct [] with serial := ⟨out true, .fresh, .fresh, out true, out true, .fresh, .fresh⟩ })
    (fun t => decide (t.trace = sDisableEvents) && decide (t.serial.a0 = ⟨.input, true⟩) && t.disabledS) = true := by decide

/-- T6. -/
theorem test_sInit_lines : nextHas (exec .sInit State.reset)
    (fun t => t.activeS && decide (t.transport = ⟨true, 400000, false⟩) && decide (t.serial.bclk = .fresh)) = true := by
  decide

/-- T7 (a). -/
theorem test_sRead_stored : nextHas (exec (.sRead 0x1234#16) (sAct [(0x1234, 0xAB#8)]))
    (fun t => decide (t.rdata = 0xAB#8) && decide (t.trace =
      [.busWrite 0x50#7 [0x12#8, 0x34#8] false, .busRequest 0x50#7 1 true [0xAB#8]]) && decide (t.chip.ptr = 0x1235)) =
    true := by decide

/-- T7 (c). -/
theorem test_sRead_absent : nextHas
    (exec (.sRead 0x1234#16) { sAct [(0x1234, 0xAB#8)] with params := { Params.reference with present := false } })
    (fun t => decide (t.rdata = 0xFF#8) && decide (t.trace =
      [.busWrite 0x50#7 [0x12#8, 0x34#8] false, .busRequest 0x50#7 1 true []])) = true := by decide

/-- T8. -/
theorem test_sWrite_stores : nextHas (exec (.sWrite 0x1234#16 0xAB#8) (sAct []))
    (fun t => decide (t.chip.mem = [(0x1234, 0xAB#8)]) && decide (t.now = 10001) && decide (t.serial.wp = out true)) =
    true := by decide

/-- Writing `0xFF` erases the cell (R37). -/
theorem test_sWrite_erases : nextHas (exec (.sWrite 0x1234#16 0xFF#8) (sAct [(0x1234, 0xAB#8)]))
    (fun t => decide (t.chip.mem = [])) = true := by decide

/-- T9, first run. -/
theorem test_sDisable_trace : nextHas (exec .sDisable (sAct []))
    (fun t => decide (t.trace = .busEnd :: sDisableEvents) && t.disabledS && decide (t.serial.a0 = .fresh)) = true := by
  decide

/-- T26. -/
theorem test_sDisable_unsafe : exec .sDisable { State.reset with started := true } = .refused .busEndNotStarted := by rfl

/-! ## The parallel operations -/

/-- T15. -/
theorem test_pSetup_lines : nextHas (exec .pSetup (State.fresh pPar))
    (fun t => t.disabledP && decide (t.trace.length = 16) && decide (t.parallel.shen = out false)) = true := by decide

/-- PROG4 (b), T16: no stray pulse with `LAT[WE] = 1`. -/
theorem test_pInit_active : nextHas (exec .pInit pSet)
    (fun t => t.activeP && decide (t.chip.mem = []) && decide (t.now = 100000) && decide (t.chip.rdyAt = some 100000)) =
    true := by decide

/-- T30: the stray pulse of the first init begins a write cycle. -/
theorem test_pInit_stray_pulse : nextHas
    (exec .pInit { pSet with parallel := { pSet.parallel with we := .fresh } })
    (fun t => decide (t.chip.wbusyUntil = 10000) && t.activeP) = true := by decide

set_option maxRecDepth 20000 in
/-- T17. -/
theorem test_pRead_stored : nextHas (exec (.pRead 0x1234#16) (pAct [(0x1234, 0xAB#8)]))
    (fun t => decide (t.rdata = 0xAB#8) && decide (t.sr = 0x1234#16) && decide (t.trace.length = 61)
      && decide (t.parallel.shdat = out false)) = true := by decide

set_option maxRecDepth 20000 in
/-- T17, last instance. -/
theorem test_pRead_top : nextHas (exec (.pRead 0xFFFF#16) (pAct [(0xFFFF, 0x80#8)]))
    (fun t => decide (t.rdata = 0x80#8) && decide (t.parallel.shdat = out true)) = true := by decide

set_option maxRecDepth 20000 in
/-- T18. -/
theorem test_pWrite_stores : nextHas (exec (.pWrite 0x1234#16 0xAB#8) (pAct []))
    (fun t => decide (t.chip.mem = [(0x1234, 0xAB#8)]) && decide (t.parallel.d2 = ⟨.input, false⟩)
      && decide (t.parallel.d7 = ⟨.input, true⟩) && decide (t.now = 110002)) = true := by decide

/-- R173, R222: a data line left an output, the chip on: contention, refused. -/
theorem test_pRead_contention : exec (.pRead 0#16) { pAct [] with parallel := { (pAct []).parallel with d3 := out true } } =
    .refused .busContention := by rfl

/-- R172, R222: power cut, `OE` low, a data line an output: the power-up of init would bring contention. -/
def pContended : State :=
  { pAct [] with parallel := { (pAct []).parallel with pwren := out true, oe := out false, d3 := out true } }
theorem test_pInit_contention : exec .pInit pContended = .refused .busContention := by rfl

/-- T34, U2: readByte and writeByte on a transport that is not started. -/
theorem test_sRead_not_started : exec (.sRead 0#16) State.reset = .refused .busNotStarted := by rfl
theorem test_sWrite_not_started : exec (.sWrite 0#16 0#8) State.reset = .refused .busNotStarted := by rfl

/-- R110, R111: rewriting the registers of a floating `SHCLK` leaves `SR` as it was. -/
theorem test_rewrite_floating_shclk :
    let s := { State.fresh pPar with sr := 0x1234#16 }
    (pinMode (.par .shclk) .input s).sr = 0x1234#16 ∧ (pinSet (.par .shclk) false s).sr = 0x1234#16 := by decide

/-- R171: setup leaves `SR` as it was, from a reset draw with `LAT[SHCLK] = 1`. -/
theorem test_pSetup_keeps_sr : nextHas
    (exec .pSetup { State.fresh pPar with sr := 0x1234#16, parallel := { (State.fresh pPar).parallel with shclk := ⟨.input, true⟩ } })
    (fun t => decide (t.sr = 0x1234#16) && decide (t.parallel.shclk = out true)) = true := by decide

/-- U16: the stray pulse with the premise `NO_WRITE_BEFORE_READY`. -/
theorem test_pInit_no_write_before_ready : nextHas
    (exec .pInit { pSet with params := { pPar with noWriteBeforeReady := true }, parallel := { pSet.parallel with we := .fresh } })
    (fun t => decide (t.chip.mem = []) && decide (t.chip.wbusyUntil = 0) && t.activeP) = true := by decide

/-- T19. -/
theorem test_pDisable_lines : nextHas (exec .pDisable (pAct []))
    (fun t => t.disabledP && decide (t.parallel.we = ⟨.input, true⟩) && decide (t.chip.rdyAt = none)) = true := by decide

/-- T20. -/
theorem test_pDisable_fresh : nextHas (exec .pDisable (State.fresh pPar))
    (fun t => decide (t.parallel.pwren = ⟨.input, true⟩) && !t.disabledP) = true := by decide

/-! ## The machine -/

/-- A placed word runs as the first instruction. -/
theorem test_step_runs_placed_word : nextHas (step (State.reset.withFetchWord 32 0x02000000))
    (fun t => t.activeS && decide (t.host = [])) = true := by decide

/-- With nothing placed, nothing happens (R210). -/
theorem test_step_idle : step State.reset = .next State.reset := rfl

/-- T32: a latch is kept in input mode and drives when the line becomes an output. -/
theorem test_latch_model : let s := pinMode (.ser .a0) .output (pinSet (.ser .a0) true State.reset)
    pinLevel (.ser .a0) s = true ∧ s.serial.a0 = out true := by decide

set_option maxRecDepth 20000 in
/-- T13: the first and the last value of a latched address. -/
theorem test_latch_values :
    shiftIn 0x1234#16 true = 0x2469#16 ∧ (latch 0x8001#16 { pAct [] with sr := 0x1234#16 }).sr = 0x8001#16 := by decide

/-! ## Witnesses: the hypotheses of the obligations are met -/

theorem witness_DecodeOfEncodeIsTheInstruction :
    Instr.wellFormed .serial (.sWrite 0xFFFF#16 0xFF#8) = true ∧ Instr.wellFormed .parallel (.pRead 0#16) = true := by decide

theorem witness_MaskedWordDecodesToItsRow :
    0x01FFFFFF#32 &&& 0xFF000000#32 = 0x01000000#32 ∧ 0x02000000#32 &&& 0xFF000000#32 = 0x02000000#32
      ∧ 0x03FFFF00#32 &&& 0xFF000000#32 = 0x03000000#32 ∧ 0x04FFFFFF#32 &&& 0xFF000000#32 = 0x04000000#32
      ∧ 0x05FFFFFF#32 &&& 0xFF000000#32 = 0x05000000#32 := by decide

theorem witness_ReservedWordIsRefused :
    State.reset.seq = .idle ∧ ({ State.reset with host := [0x00000000#32] } : State).host = 0x00000000#32 :: []
      ∧ (0x0B000000#32).extractLsb' 27 5 ≠ 0#5 ∧ (0x00000000#32).extractLsb' 24 3 = 0#3
      ∧ (0x06000000#32).extractLsb' 24 3 = 6#3 ∧ (0x07FFFFFF#32).extractLsb' 24 3 = 7#3 := by decide

theorem witness_AssembledCallDecodesToTheCall : 65535 ≤ 65535 ∧ 255 ≤ 255 ∧ 65535 < 65536 ∧ 255 < 256 := by decide

theorem witness_StepRunsTheDecodedInstruction : let s := { State.reset with host := [0x041234AB#32] }
    s.seq = .idle ∧ s.host = 0x041234AB#32 :: [] ∧ decode s.params.variant 0x041234AB#32 = .ok (.sWrite 0x1234#16 0xAB#8) := by
  decide

theorem witness_IdleBlockWithoutCommandStays : State.reset.seq = .idle ∧ State.reset.host = [] := by decide

theorem witness_BusyBlockCompletesAndAcceptsNothing : let s := { sAct [] with seq := .running .write 3 }
    s.seq = .running .write 3 ∧ s.stopAt .write 3 = none
      ∧ ({ State.reset with started := true, seq := .running .disable 1 } : State).stopAt .disable 1 =
        some .busEndNotStarted := by decide

theorem witness_EveryAcceptedOperationCompletes :
    (Instr.sDisable).variant = (sAct []).params.variant ∧ (sAct []).unsafeShutdown = false ∧ (sAct []).transport.on = true
      ∧ (Instr.pWrite 0#16 0#8).variant = (pAct []).params.variant ∧ (pAct []).readContends = false
      ∧ (pAct []).writeContends = false ∧ (pAct []).initContends = false := by decide

theorem witness_OtherVariantHasNoInstruction : (Instr.pInit).variant ≠ State.reset.params.variant := by decide

theorem witness_SequencerResumesAtAnyStep :
    (Instr.sSetup).variant = State.reset.params.variant ∧ 0 ≤ (stepsOf .serial .setup).length
      ∧ (stepsOf .serial .setup).length ≤ (stepsOf .serial .setup).length ∧ ∃ t, exec .sSetup State.reset = .next t :=
  ⟨rfl, Nat.zero_le _, Nat.le_refl _, _, exec_sSetup rfl⟩

theorem witness_PinModeWritesDirectionOnly :
    (State.reset.line (.par .shclk)).dir = .input ∧ Line.par .we ≠ .par .shclk := by decide

theorem witness_PinSetWritesLatchOnly :
    (State.reset.line (.par .shclk)).lat = false ∧ Line.ser .wp ≠ .par .shclk := by decide

theorem witness_PinGetOfOutputIsItsLatch :
    ((sAct []).line (.ser .pwr)).dir = .output ∧ (sAct []).transport.on = true := by decide

theorem witness_DataBusCarriesBitAtItsIndex : (dataBits 0xAB#8).length = 8 ∧ 7 < 8 ∧ (accept .read (sAct [])).inPhase = true := by
  decide

theorem witness_ShiftRegisterMovesOnRisingEdgeOnly :
    (pAct []).parallel.shdat.dir = .output ∧ (pAct []).parallel.shclk.dir = .output ∧ (pAct []).parallel.shclk.lat = false
      ∧ (pinSet (.par .shclk) true (pAct [])).parallel.shclk.lat = true := by decide

theorem witness_LatchShiftsTheAddressIn :
    (pAct []).parallel.shclk.dir = .output ∧ (pAct []).parallel.shdat.dir = .output := by decide

theorem witness_WriteProtectGuardsDataNotAddress :
    (sAct []).responds (devAddr (sAct []).params) = true ∧ (sAct []).sound = true ∧ (sAct []).serial.wp = out true
      ∧ (pinSet (.ser .wp) false (sAct [])).responds (devAddr (sAct []).params) = true
      ∧ (pinSet (.ser .wp) false (sAct [])).sound = true
      ∧ (pinSet (.ser .wp) false (sAct [])).serial.wp = out false := by decide

theorem witness_PowerKeepsTheArrayAndLosesTheRest :
    (sAct []).serial.powered = true ∧ (pAct []).parallel.powered = true
      ∧ (pinSet (.ser .pwr) false (sAct [])).serial.pwr = out false
      ∧ (pinMode (.ser .pwr) .input (sAct [])).serial.pwr = ⟨.input, true⟩
      ∧ pSet.parallel.pwren = out true ∧ (pinMode (.par .pwren) .input (pAct [])).parallel.pwren = .fresh := by decide

theorem witness_SerialSetupEstablishesInvariant :
    State.reset.params.variant = .serial ∧ State.reset.transport.held = false := by decide

theorem witness_SerialSetupReachesDisabled : State.reset.params.variant = .serial := by decide
theorem witness_SerialInitReachesActive : (State.fresh Params.reference).params.variant = .serial
    ∧ (State.fresh Params.reference).params.constants = .given := by decide

theorem witness_SerialReadRunsOnStartedTransport :
    (sAct []).params.variant = .serial ∧ (sAct []).transport.on = true ∧ (sAct []).resultsDefined = true
      ∧ State.reset.params.variant = .serial ∧ State.reset.transport.on = false := by decide

theorem witness_SerialReadReturnsTheStoredByte :
    (sAct [(0xFFFF, 0#8)]).params.variant = .serial ∧ (sAct [(0xFFFF, 0#8)]).resultsDefined = true
      ∧ (sAct [(0xFFFF, 0#8)]).responds (devAddr (sAct [(0xFFFF, 0#8)]).params) = true := by decide

theorem witness_SerialReadOfAbsentDeviceIsFF :
    let s := { sAct [] with params := { Params.reference with present := false } }
    s.params.variant = .serial ∧ s.resultsDefined = true ∧ s.params.present = false ∧ s.params.constants = .given := by decide

theorem witness_SerialWriteRunsOnStartedTransport :
    (sAct []).params.variant = .serial ∧ (sAct []).transport.on = true ∧ (sAct []).params.constants = .given
      ∧ (sAct []).resultsDefined = true ∧ State.reset.params.variant = .serial ∧ State.reset.transport.on = false := by decide

theorem witness_SerialWriteStoresTheByte : (sAct []).params.variant = .serial ∧ (sAct []).resultsDefined = true
    ∧ (sAct []).sound = true ∧ (sAct []).responds (devAddr (sAct []).params) = true := by decide

theorem witness_SerialWriteToAbsentDeviceStoresNothing :
    let s := { sAct [(1, 1#8)] with params := { Params.reference with present := false } }
    s.params.variant = .serial ∧ s.resultsDefined = true ∧ s.params.present = false := by decide

theorem witness_SerialDisableReachesDisabled :
    (sAct []).params.variant = .serial ∧ (sAct []).unsafeShutdown = false ∧ (sAct []).started = true
      ∧ State.reset.params.variant = .serial ∧ State.reset.unsafeShutdown = false ∧ State.reset.started = false := by decide

theorem witness_SerialDisableTwiceIsOnce : ∃ t, exec .sDisable (sAct []) = .next t := ⟨_, exec_sDisable rfl rfl⟩

theorem witness_SerialDisableRefusesUnsafeShutdown : let s := { State.reset with started := true }
    s.params.variant = .serial ∧ s.started = true ∧ s.transport.on = false := by decide

theorem witness_SerialRoundTrip : (sAct []).params.variant = .serial ∧ (sAct []).resultsDefined = true
    ∧ (sAct []).sound = true ∧ (sAct []).responds (devAddr (sAct []).params) = true ∧ (sAct []).params.timely = true := by
  decide

/-- The three-byte write, the two-byte write and the request. -/
theorem witness_DataFramesOnlyWithProtectReleased :
    (Instr.sWrite 0#16 0#8).variant = .serial
      ∧ (∃ t, exec (.sWrite 0#16 0#8) (sAct []) = .next t
          ∧ t.trace = (sAct []).trace ++ sWriteEvents (sAct []).params 0#16 0#8)
      ∧ (sWriteEvents (sAct []).params 0#16 0#8)[2]? = some (.busWrite 0x50#7 [0#8, 0#8, 0#8] true)
      ∧ (∃ t, exec (.sRead 0#16) (sAct []) = .next t
          ∧ t.trace = (sAct []).trace ++ sReadEvents (sAct []).params 0#16 [0xFF#8])
      ∧ (sReadEvents (sAct []).params 0#16 [0xFF#8])[0]? = some (.busWrite 0x50#7 [0#8, 0#8] false)
      ∧ (sReadEvents (sAct []).params 0#16 [0xFF#8])[1]? = some (.busRequest 0x50#7 1 true [0xFF#8]) :=
  ⟨rfl, ⟨_, exec_sWrite rfl rfl, by decide⟩, by decide, ⟨_, exec_sRead rfl rfl, by decide⟩, by decide, by decide⟩

theorem witness_SerialInvariantIsKept : let s := { sAct [] with host := [0x05000000#32] }
    s.params.variant = .serial ∧ s.seq = .idle ∧ s.serialOk = true ∧ ∃ t, step s = .next t :=
  ⟨rfl, rfl, by decide, _, exec_sDisable (s := sAct []) rfl rfl⟩

theorem witness_ParallelSetupReachesDisabled : (State.fresh pPar).params.variant = .parallel := by decide

theorem witness_ParallelInitRunsWithoutContention : pSet.params.variant = .parallel ∧ pSet.parallel.we.lat = true
    ∧ pSet.initContends = false ∧ pContended.params.variant = .parallel ∧ pContended.initContends = true
    ∧ (let s := pinMode (.par .we) .output (pinSet (.par .pwren) false (accept .init { pSet with parallel :=
        { pSet.parallel with shen := out true } }))
      cell s.params 1#16 ≠ cell s.params s.pulseAddr)
    ∧ (let s := { pSet with params := { pPar with noWriteBeforeReady := true } }
      s.params.noWriteBeforeReady = true ∧ s.parallel.powered = false
        ∧ s.slack.headD 0 + s.slack.tail.headD 0 < s.params.tRdyPar ∧ s.params.constants = .given) := by decide

theorem witness_ParallelInitReachesActive :
    pSet.params.variant = .parallel ∧ pSet.parallel.ok = true ∧ pSet.sound = true := by decide

theorem witness_ParallelReadRunsWithoutContention : (pAct []).params.variant = .parallel ∧ (pAct []).readContends = false
    ∧ ({ pAct [] with parallel := { (pAct []).parallel with d3 := out true } } : State).readContends = true
    ∧ (pAct []).params.constants = .given ∧ (pAct []).resultsDefined = true
    ∧ (pAct []).parallel.shclk.dir = .output ∧ (pAct []).parallel.shdat.dir = .output := by decide

theorem witness_ParallelReadReturnsTheStoredByte : (pAct [(0, 0#8)]).params.variant = .parallel
    ∧ (pAct [(0, 0#8)]).resultsDefined = true ∧ (pAct [(0, 0#8)]).parallelReady = true := by decide

theorem witness_ParallelWriteRunsWithoutContention : (pAct [(1, 1#8)]).params.variant = .parallel
    ∧ (pAct [(1, 1#8)]).writeContends = false ∧ (pAct [(1, 1#8)]).params.constants = .given
    ∧ ({ pAct [] with parallel := { (pAct []).parallel with oe := out false } } : State).writeContends = true
    ∧ (pAct [(1, 1#8)]).resultsDefined = true ∧ (pAct [(1, 1#8)]).parallel.shclk.dir = .output
    ∧ (pAct [(1, 1#8)]).parallel.shdat.dir = .output := by decide

theorem witness_ParallelWriteStoresTheByte : (pAct []).params.variant = .parallel ∧ (pAct []).resultsDefined = true
    ∧ (pAct []).sound = true ∧ (pAct []).parallelReady = true := by decide

theorem witness_ParallelDisablePowersOff : (pAct []).params.variant = .parallel ∧ (pAct []).parallel.pwren.dir = .output
    ∧ (pAct []).parallel.shen.dir = .output ∧ (pAct []).parallel.shclk.dir = .output
    ∧ (pAct []).parallel.shdat.dir = .output := by decide

theorem witness_ParallelDisableTwiceIsOnce : ∃ t, exec .pDisable (pAct []) = .next t := ⟨_, exec_pDisable rfl⟩

theorem witness_ParallelRoundTrip : (pAct []).params.variant = .parallel ∧ (pAct []).resultsDefined = true
    ∧ (pAct []).sound = true ∧ (pAct []).parallelReady = true ∧ (pAct []).params.timely = true := by decide

theorem witness_ParallelLinesAreNeverUnsafe : (Instr.pDisable).variant = .parallel ∧ (pAct []).parallel.ok = true
    ∧ ∃ t, exec .pDisable (pAct []) = .next t ∧ t.trace = (pAct []).trace ++ pDisableEvents :=
  ⟨rfl, by decide, _, exec_pDisable rfl, by decide⟩

theorem witness_ParallelInvariantIsKept : let s := { pAct [] with host := [0x05000000#32] }
    s.params.variant = .parallel ∧ s.seq = .idle ∧ s.parallel.ok = true ∧ ∃ t, step s = .next t :=
  ⟨rfl, rfl, by decide, _, exec_pDisable (s := pAct []) rfl⟩

theorem witness_ParallelSetupEstablishesInvariant : (State.fresh pPar).params.variant = .parallel := by decide

theorem witness_SoundStateIsKept : let s := { sAct [(0xFFFF, 0#8)] with host := [0x02000000#32] }
    s.sound = true ∧ ∃ t, step s = .next t :=
  ⟨by decide, _, exec_sInit (s := sAct [(0xFFFF, 0#8)]) rfl⟩

theorem witness_TraceDeterminesTheLines : ∃ t, step { sAct [] with host := [0x02000000#32] } = .next t :=
  ⟨_, exec_sInit (s := sAct []) rfl⟩

theorem witness_StepStaysWithinItsVariant :
    (∃ t, step { sAct [] with host := [0x02000000#32] } = .next t ∧ (sAct []).params.variant = .serial)
      ∧ ∃ t, step { pAct [] with host := [0x02000000#32] } = .next t ∧ (pAct []).params.variant = .parallel :=
  ⟨⟨_, exec_sInit (s := sAct []) rfl, rfl⟩, _, exec_pInit (s := pAct []) rfl rfl, rfl⟩

theorem witness_OperandRegistersAreWrittenByTheirOperations :
    (∃ t, exec (.sRead 0xFFFF#16) (sAct []) = .next t) ∧ (∃ t, exec (.pWrite 0#16 0xFF#8) (pAct []) = .next t)
      ∧ ∃ t, exec .pInit (pAct []) = .next t :=
  ⟨⟨_, exec_sRead rfl rfl⟩, ⟨_, exec_pWrite rfl rfl⟩, _, exec_pInit rfl rfl⟩

theorem witness_OperationsIssueTheirEventCounts :
    (∃ t, exec .sSetup (sAct []) = .next t) ∧ (∃ t, exec .sInit (sAct []) = .next t)
      ∧ (∃ t, exec (.sRead 0#16) (sAct []) = .next t) ∧ (∃ t, exec (.sWrite 0#16 0#8) (sAct []) = .next t)
      ∧ (∃ t, exec .sDisable (sAct []) = .next t) ∧ (∃ t, exec .pSetup (pAct []) = .next t)
      ∧ (∃ t, exec .pInit (pAct []) = .next t) ∧ (∃ t, exec (.pRead 0#16) (pAct []) = .next t)
      ∧ (∃ t, exec (.pWrite 0#16 0#8) (pAct []) = .next t) ∧ ∃ t, exec .pDisable (pAct []) = .next t :=
  ⟨⟨_, exec_sSetup rfl⟩, ⟨_, exec_sInit rfl⟩, ⟨_, exec_sRead rfl rfl⟩, ⟨_, exec_sWrite rfl rfl⟩, ⟨_, exec_sDisable rfl rfl⟩,
    ⟨_, exec_pSetup rfl⟩, ⟨_, exec_pInit rfl rfl⟩, ⟨_, exec_pRead rfl rfl⟩, ⟨_, exec_pWrite rfl rfl⟩, _, exec_pDisable rfl⟩

theorem witness_SetupThenInitIsActive :
    State.reset.params.variant = .serial ∧ (State.fresh pPar).params.variant = .parallel := by decide

theorem witness_LifecycleRoundTrip :
    (State.reset.params.variant = .serial ∧ State.reset.params.present = true ∧ State.reset.params.timely = true
        ∧ State.reset.sound = true ∧ State.reset.chip.wbusyUntil ≤ State.reset.now)
      ∧ ((State.fresh pPar).params.variant = .parallel ∧ (State.fresh pPar).params.present = true
        ∧ (State.fresh pPar).params.timely = true ∧ pPar.constants.tParWriteMs ≤ pPar.constants.tParPowerMs
        ∧ (State.fresh pPar).sound = true
        ∧ (State.fresh pPar).chip.wbusyUntil ≤ (State.fresh pPar).now) := by decide

theorem witness_SetupAgainstDisableFromFresh :
    (∃ t, exec .sSetup (State.fresh Params.reference) = .next t) ∧ (∃ t, exec .sDisable (State.fresh Params.reference) = .next t)
      ∧ (∃ t, exec .pSetup (State.fresh pPar) = .next t) ∧ ∃ t, exec .pDisable (State.fresh pPar) = .next t :=
  ⟨⟨_, exec_sSetup rfl⟩, ⟨_, exec_sDisable rfl rfl⟩, ⟨_, exec_pSetup rfl⟩, _, exec_pDisable rfl⟩

end Sys2Proof.Tests
end

section
/-! What the trace determines (spec/10_state.md R30, 40_line_primitives.md R114): every micro-operation records one event, that
event says what becomes of the line registers, and nothing else in the model touches them, the trace or the time. -/

namespace Sys2Proof.Machine

/-! ## One event, or none -/

/-- From `s` to `t` the trace has grown by events that determine what became of the line registers of both variants, and time
has not run back (R15, R30, R114). -/
def TraceExtends (s t : State) : Prop :=
  ∃ evs, t.trace = s.trace ++ evs
    ∧ t.serial = serialAfter s.serial evs ∧ t.parallel = parallelAfter s.parallel evs ∧ s.now ≤ t.now

/-- `t` is `s` after the one event `e`: it stands last in the trace, and the line registers are as it says. -/
structure RecordsEvent (e : Event) (s t : State) : Prop where
  log : t.log = e :: s.log
  serial : t.serial = serialEvent s.serial e
  parallel : t.parallel = parallelEvent s.parallel e
  now : s.now ≤ t.now

/-- `t` has the trace, the line registers and the time of `s`. -/
structure KeepsTrace (s t : State) : Prop where
  log : t.log = s.log
  serial : t.serial = s.serial
  parallel : t.parallel = s.parallel
  now : t.now = s.now

theorem traceExtends_refl (s : State) : TraceExtends s s :=
  ⟨[], (List.append_nil _).symm, rfl, rfl, Nat.le_refl _⟩

/-- One more event extends the trace, and the line registers are the fold of the longer list. -/
theorem TraceExtends.record {e : Event} {s t u : State} (h : TraceExtends s t) (r : RecordsEvent e t u) : TraceExtends s u := by
  obtain ⟨evs, htrace, hserial, hparallel, hnow⟩ := h
  refine ⟨evs ++ [e], ?_, ?_, ?_, hnow.trans r.now⟩
  · calc u.trace = t.trace ++ [e] := by simp [State.trace, r.log]
      _ = s.trace ++ (evs ++ [e]) := by rw [htrace, List.append_assoc]
  · rw [r.serial, hserial, serialAfter, serialAfter, List.foldl_concat]
  · rw [r.parallel, hparallel, parallelAfter, parallelAfter, List.foldl_concat]

/-- What keeps the trace, the lines and the time extends it by no event. -/
theorem TraceExtends.keep {s t u : State} (h : TraceExtends s t) (k : KeepsTrace t u) : TraceExtends s u := by
  obtain ⟨evs, htrace, hserial, hparallel, hnow⟩ := h
  exact ⟨evs, by simpa only [State.trace, k.log] using htrace, k.serial.trans hserial, k.parallel.trans hparallel, k.now ▸ hnow⟩

/-! ## The nine micro-operations -/

/-- `PinMode` records `mode(L,d)`, and writes `DIR[L]` as that event says (R110). -/
theorem pinMode_records (l : Line) (d : Dir) (s : State) : RecordsEvent (.mode l d) s (pinMode l d s) where
  log := pinMode_log l d s
  serial := by cases l <;> simp [serialEvent]
  parallel := by cases l <;> simp [parallelEvent]
  now := by simp

/-- `PinSet` records `set(L,v)`, and writes `LAT[L]` as that event says (R111). -/
theorem pinSet_records (l : Line) (v : Bool) (s : State) : RecordsEvent (.set l v) s (pinSet l v s) where
  log := pinSet_log l v s
  serial := by cases l <;> simp [serialEvent]
  parallel := by cases l <;> simp [parallelEvent]
  now := by simp

theorem pinGet_records (l : Line) (s : State) : RecordsEvent (.get l (pinLevel l s)) s (pinGet l s) :=
  ⟨pinGet_log l s, by simp [serialEvent], by simp [parallelEvent], by simp⟩

theorem delayUs_records (n : Nat) (s : State) : RecordsEvent (.delayUs n) s (delayUs n s) :=
  ⟨delayUs_log n s, by simp [serialEvent], by simp [parallelEvent], by simp [Nat.add_assoc]⟩

theorem delayMs_records (n : Nat) (s : State) : RecordsEvent (.delayMs n) s (delayMs n s) :=
  ⟨delayMs_log n s, by simp [serialEvent], by simp [parallelEvent], by simp [Nat.add_assoc]⟩

theorem busBegin_records (r : Nat) (s : State) : RecordsEvent (.busBegin r) s (busBegin r s) :=
  ⟨busBegin_log r s, by simp [serialEvent], by simp [parallelEvent], by simp⟩

theorem busEnd_records (s : State) : RecordsEvent .busEnd s (busEnd s) :=
  ⟨busEnd_log s, by simp [serialEvent], by simp [parallelEvent], by simp⟩

theorem busWrite_records (dev : DevAddr) (bs : List Byte) (stop : Bool) (s : State) :
    RecordsEvent (.busWrite dev bs stop) s (busWrite dev bs stop s) :=
  ⟨busWrite_log dev bs stop s, by simp [serialEvent], by simp [parallelEvent], by simp⟩

theorem busRequest_records (dev : DevAddr) (s : State) :
    RecordsEvent (.busRequest dev 1 true (s.requestAnswer dev)) s (busRequest dev s) :=
  ⟨busRequest_log dev s, by simp [serialEvent], by simp [parallelEvent], by simp⟩

/-! ## The writes that are no micro-operation -/

theorem setRdata_keepsTrace (v : Byte) (s : State) : KeepsTrace s (setRdata v s) :=
  ⟨by simp, by simp, by simp, by simp⟩

theorem loseEeprom_keepsTrace (s : State) : KeepsTrace s (loseEeprom s) :=
  ⟨by simp, by simp, by simp, by simp⟩

/-! ## Every step -/

/-- Each micro-operation extends the trace by its event; acceptance, the register writes and the end of an operation extend it
by none. -/
theorem traceExtends_closed (s : State) : Closed (TraceExtends s) where
  pinMode l d _ h := h.record (pinMode_records l d _)
  pinSet l v _ h := h.record (pinSet_records l v _)
  pinGet l _ h := h.record (pinGet_records l _)
  delayUs n _ h := h.record (delayUs_records n _)
  delayMs n _ h := h.record (delayMs_records n _)
  busBegin r _ h := h.record (busBegin_records r _)
  busEnd _ h := h.record (busEnd_records _)
  busWrite dev bs stop _ h := h.record (busWrite_records dev bs stop _)
  busRequest dev _ h := h.record (busRequest_records dev _)
  setStarted _ _ h := h.keep ⟨rfl, rfl, rfl, rfl⟩
  setRdata v _ h := h.keep (setRdata_keepsTrace v _)
  noSamples _ h := h.keep ⟨rfl, rfl, rfl, rfl⟩
  atSeq _ _ h := h.keep ⟨rfl, rfl, rfl, rfl⟩
  loseEeprom _ h := h.keep (loseEeprom_keepsTrace _)
  setAddr _ _ h := h.keep ⟨rfl, rfl, rfl, rfl⟩
  setWdata _ _ h := h.keep ⟨rfl, rfl, rfl, rfl⟩
  accept _ _ h := h.keep ⟨rfl, rfl, rfl, rfl⟩
  setHost _ _ h := h.keep ⟨rfl, rfl, rfl, rfl⟩

/-- Settles O52: a state extends its own trace by nothing, and what every micro-operation keeps, every step keeps. -/
theorem traceDeterminesTheLines : Obligations.TraceDeterminesTheLines := by
  intro s _ hstep
  exact closed_step (traceExtends_closed s) hstep (traceExtends_refl s)

end Sys2Proof.Machine
end

section
/-! The state after reset (spec/10_state.md R37, R210): what `State.fresh` holds for every choice of the parameters, and the
parameters that `State.reset` carries (R10). -/

namespace Sys2Proof.Machine

/-- The reference fresh state meets the serial invariants: nothing is started, no bus is held, no line is driven (R37, R157). -/
theorem fresh_serialOk (p : Params) : (State.fresh p).serialOk = true := rfl

/-- The empty array is in canonical form, and `PTR = 0` names a cell whatever `ADDR_BITS` is (R37, R52). -/
theorem fresh_sound (p : Params) : (State.fresh p).sound = true := by
  have hptr : (State.fresh p).chip.ptr < 2 ^ (State.fresh p).params.addrBits := Nat.two_pow_pos p.addrBits
  rw [State.sound, decide_eq_true hptr]
  rfl

/-- A chip on which nothing was written reads as erased everywhere (R37). -/
theorem fresh_memRead (p : Params) (a : Addr) : (State.fresh p).memRead a = erasedByte := rfl

/-- The reference pins are pairwise distinct within each variant (D22). -/
theorem reference_pins_distinct (v : Variant) : Params.reference.pins.distinct v = true := by
  cases v with
  | serial => decide
  | parallel => decide

/-- Settles O36. -/
theorem serialInvariantHoldsAtReset : Obligations.SerialInvariantHoldsAtReset :=
  ⟨fun p => ⟨rfl, fresh_serialOk p⟩, fresh_serialOk Params.reference⟩

/-- Settles O51. -/
theorem soundStateHoldsAtReset : Obligations.SoundStateHoldsAtReset :=
  ⟨fresh_sound, fresh_sound Params.reference⟩

/-- Settles O58: the registers of the fresh state are read off it; the array and the pins are the two lemmas above. -/
theorem resetIsAsTheSpecStates : Obligations.ResetIsAsTheSpecStates :=
  ⟨fun p => ⟨rfl, rfl, rfl, rfl, fresh_memRead p, rfl, rfl⟩, rfl, reference_pins_distinct⟩

end Sys2Proof.Machine
end

section
/-! What the steps of an operation leave as acceptance wrote it (spec/10_state.md R21 to R23, R35, 41_eepromio_contract.md R137,
R138): the parameters, the operands, the host's coming words and the phase; and who writes `RDATA`. -/

namespace Sys2Proof.Machine

/-! ## What acceptance wrote -/

/-- What no step of an operation writes: the parameters (R35), the operands loaded at acceptance (R21, R22, R137), the host's
coming words (R138), and the phase noted at acceptance (U1). -/
def State.accepted (s : State) : Params × Addr × Byte × List CmdWord × Bool :=
  (s.params, s.addr, s.wdata, s.host, s.inPhase)

@[simp] theorem accepted_atSeq (q : Seq) (s : State) : (atSeq q s).accepted = s.accepted := rfl
@[simp] theorem accepted_setStarted (v : Bool) (s : State) : (setStarted v s).accepted = s.accepted := rfl
@[simp] theorem accepted_delayUs (n : Nat) (s : State) : (delayUs n s).accepted = s.accepted := rfl
@[simp] theorem accepted_delayMs (n : Nat) (s : State) : (delayMs n s).accepted = s.accepted := rfl
@[simp] theorem accepted_busBegin (r : Nat) (s : State) : (busBegin r s).accepted = s.accepted := rfl
@[simp] theorem accepted_busEnd (s : State) : (busEnd s).accepted = s.accepted := rfl

@[simp] theorem accepted_pinMode (l : Line) (d : Dir) (s : State) : (pinMode l d s).accepted = s.accepted := by
  cases l <;> simp [State.accepted]

@[simp] theorem accepted_pinSet (l : Line) (v : Bool) (s : State) : (pinSet l v s).accepted = s.accepted := by
  cases l <;> simp [State.accepted]

@[simp] theorem accepted_busWrite (dev : DevAddr) (bs : List Byte) (stop : Bool) (s : State) :
    (busWrite dev bs stop s).accepted = s.accepted := by simp [State.accepted]

@[simp] theorem accepted_busRequest (dev : DevAddr) (s : State) : (busRequest dev s).accepted = s.accepted := by
  simp [State.accepted]

@[simp] theorem accepted_setRdata (v : Byte) (s : State) : (setRdata v s).accepted = s.accepted := by simp [State.accepted]

@[simp] theorem accepted_drive (l : Line) (v : Bool) (s : State) : (drive l v s).accepted = s.accepted := by simp [drive]

@[simp] theorem accepted_latch (a : Addr) (s : State) : (latch a s).accepted = s.accepted := by simp [State.accepted]

@[simp] theorem accepted_dataMode (d : Dir) (s : State) : (dataMode d s).accepted = s.accepted := by simp [State.accepted]

@[simp] theorem accepted_dataSet (s : State) : (dataSet s).accepted = s.accepted := by simp [State.accepted]

@[simp] theorem accepted_dataGet (s : State) : (dataGet s).accepted = s.accepted := by simp [State.accepted]

@[simp] theorem accepted_floatSerial (s : State) : (floatSerial s).accepted = s.accepted :=
  foldl_keeps State.accepted _ (fun s l => accepted_pinMode (.ser l) .input s) _ s

@[simp] theorem accepted_stopTransport (s : State) : (stopTransport s).accepted = s.accepted := by
  unfold stopTransport; split <;> simp

@[simp] theorem accepted_callSDisable (s : State) : (callSDisable s).accepted = s.accepted := by
  simp [callSDisable, sDisableSteps]

@[simp] theorem accepted_callPDisable (s : State) : (callPDisable s).accepted = s.accepted := by
  simp [callPDisable, pDisableSteps]

/-- No step of any operation writes what acceptance wrote. -/
theorem accepted_stepsOf (v : Variant) (op : Op) : ∀ f ∈ stepsOf v op, ∀ s, (f s).accepted = s.accepted := by
  cases v <;> cases op
  case serial.setup => simp [stepsOf, sSetupSteps]
  case serial.init => simp [stepsOf, sInitSteps]
  case serial.read => simp [stepsOf, sReadSteps, sendAddress, requestByte, takeAnswer]
  case serial.write => simp [stepsOf, sWriteSteps, sendWrite]
  case serial.disable => simp [stepsOf, sDisableSteps]
  case parallel.setup => simp [stepsOf, pSetupSteps]
  case parallel.init => simp [stepsOf, pInitSteps]
  case parallel.read => simp [stepsOf, pReadSteps, latchAddr, takeSample]
  case parallel.write => simp [stepsOf, pWriteSteps, latchAddr]
  case parallel.disable => simp [stepsOf, pDisableSteps]

/-- What each step of an operation leaves as it was, and `SEQ` has no part in, its steps run in order leave as it was. -/
theorem runSteps_same {γ : Type} (g : State → γ) (op : Op) {l : List (State → State)}
    (hseq : ∀ s q, g (atSeq q s) = g s) (h : ∀ f ∈ l, ∀ s, g (f s) = g s) (k : Nat) (s : State) :
    g (runSteps op l k s) = g s :=
  @runSteps_keeps (fun t => g t = g s) op l (fun t q ht => (hseq t q).trans ht) (fun f hf t ht => (h f hf t).trans ht) k s rfl

/-- Any run of steps of an operation keeps what acceptance wrote. -/
theorem accepted_runSteps {v : Variant} {op : Op} {l : List (State → State)} (hl : l ⊆ stepsOf v op) (k : Nat) (s : State) :
    (runSteps op l k s).accepted = s.accepted :=
  runSteps_same State.accepted op (fun s q => accepted_atSeq q s) (fun f hf => accepted_stepsOf v op f (hl hf)) k s

theorem accepted_eq_iff {s t : State} : t.accepted = s.accepted ↔
    t.params = s.params ∧ t.addr = s.addr ∧ t.wdata = s.wdata ∧ t.host = s.host ∧ t.inPhase = s.inPhase := by
  simp [State.accepted]

theorem params_runSteps {v : Variant} {op : Op} {l : List (State → State)} (hl : l ⊆ stepsOf v op) (k : Nat) (s : State) :
    (runSteps op l k s).params = s.params := congrArg Prod.fst (accepted_runSteps hl k s)

/-! ## Who writes `RDATA` -/

@[simp] theorem rdata_pinMode (l : Line) (d : Dir) (s : State) : (pinMode l d s).rdata = s.rdata := by cases l <;> simp

@[simp] theorem rdata_pinSet (l : Line) (v : Bool) (s : State) : (pinSet l v s).rdata = s.rdata := by cases l <;> simp

@[simp] theorem rdata_floatSerial (s : State) : (floatSerial s).rdata = s.rdata :=
  foldl_keeps State.rdata _ (fun s l => rdata_pinMode (.ser l) .input s) _ s

@[simp] theorem rdata_stopTransport (s : State) : (stopTransport s).rdata = s.rdata := by
  unfold stopTransport; split <;> simp

/-- No step of an operation but a readByte's writes `RDATA` (R23). -/
theorem rdata_stepsOf (v : Variant) {op : Op} (h : op ≠ .read) : ∀ f ∈ stepsOf v op, ∀ s, (f s).rdata = s.rdata := by
  cases v <;> cases op
  case serial.read => exact absurd rfl h
  case parallel.read => exact absurd rfl h
  case serial.setup => simp [stepsOf, sSetupSteps, callSDisable, sDisableSteps]
  case serial.init => simp [stepsOf, sInitSteps, drive]
  case serial.write => simp [stepsOf, sWriteSteps, sendWrite]
  case serial.disable => simp [stepsOf, sDisableSteps]
  case parallel.setup => simp [stepsOf, pSetupSteps, callPDisable, pDisableSteps]
  case parallel.init => simp [stepsOf, pInitSteps, drive]
  case parallel.write => simp [stepsOf, pWriteSteps, latchAddr]
  case parallel.disable => simp [stepsOf, pDisableSteps]

/-! ## The operands -/

theorem loadOperands_params (i : Instr) (s : State) : (loadOperands i s).params = s.params := by cases i <;> rfl

theorem loadOperands_rdata (i : Instr) (s : State) : (loadOperands i s).rdata = s.rdata := by cases i <;> rfl

theorem loadOperands_wdata (i : Instr) (s : State) :
    (loadOperands i s).wdata = if i.op = .write then i.valueField else s.wdata := by cases i <;> rfl

theorem loadOperands_addr (i : Instr) (s : State) :
    (loadOperands i s).addr = if i.op = .read ∨ i.op = .write then i.addressField else s.addr := by
  cases i <;> simp [loadOperands, Instr.op, Instr.addressField]

/-- At the end of an instruction `ADDR` and `WDATA` are as acceptance loaded them (R21, R22). -/
theorem exec_next_operands {i : Instr} {s t : State} (h : exec i s = .next t) :
    t.addr = (loadOperands i s).addr ∧ t.wdata = (loadOperands i s).wdata := by
  obtain ⟨-, -, rfl⟩ := exec_next h
  obtain ⟨-, haddr, hwdata, -, -⟩ :=
    accepted_eq_iff.1 (accepted_runSteps (List.Subset.refl (stepsOf i.variant i.op)) 1 (accept i.op (loadOperands i s)))
  exact ⟨(finish_addr _ _).trans haddr, (finish_wdata _ _).trans hwdata⟩

/-- An instruction that is no readByte leaves `RDATA` as it was (R23). -/
theorem exec_next_rdata {i : Instr} {s t : State} (h : exec i s = .next t) (hread : i.op ≠ .read) : t.rdata = s.rdata := by
  obtain ⟨-, -, rfl⟩ := exec_next h
  have hsteps := runSteps_same State.rdata i.op (fun u q => atSeq_rdata q u) (rdata_stepsOf i.variant hread) 1
    (accept i.op (loadOperands i s))
  rw [operate, finish_rdata, hsteps, accept_rdata, loadOperands_rdata]

/-- Settles O54: the operands are those that acceptance loads, and only a readByte's last step writes `RDATA`. -/
theorem operandRegistersAreWrittenByTheirOperations : Obligations.OperandRegistersAreWrittenByTheirOperations := by
  intro i s t h
  obtain ⟨haddr, hwdata⟩ := exec_next_operands h
  rw [loadOperands_addr] at haddr
  rw [loadOperands_wdata] at hwdata
  refine ⟨exec_next_rdata h, fun hw => ?_, fun hw => ?_, fun hr hw => ?_, fun hrw => ?_⟩
  · rw [hwdata, if_neg hw]
  · rw [hwdata, if_pos hw]
  · rw [haddr, if_neg (not_or.2 ⟨hr, hw⟩)]
  · rw [haddr, if_pos hrw]

end Sys2Proof.Machine
end

section
/-! The operation in progress (spec/10_state.md R24, 41_eepromio_contract.md R138): a busy step completes it, and an
operation that is not refused at its start can be taken up again after any of its steps. -/

namespace Sys2Proof.Machine

/-! ## A busy step -/

/-- A busy block is left to the sequencer (R24, R138). -/
theorem step_running {s : State} {op : Op} {k : Nat} (h : s.seq = .running op k) : step s = resume op k s := by
  rw [step, h]

theorem resume_none {s : State} {op : Op} {k : Nat} (h : s.stopAt op k = none) :
    resume op k s = .next (finish op (runSteps op ((stepsOf s.params.variant op).drop (k - 1)) k s)) := by
  rw [resume, h]

theorem resume_some {s : State} {op : Op} {k : Nat} {r : Refusal} (h : s.stopAt op k = some r) :
    resume op k s = .refused r := by
  rw [resume, h]

/-- The end of any run of an operation's steps is the end of the operation (R24, R137). -/
theorem finish_runSteps_completed {v : Variant} {op : Op} {l : List (State → State)} (hl : l ⊆ stepsOf v op) (k : Nat)
    (s : State) : Completed s (finish op (runSteps op l k s)) := by
  obtain ⟨hparams, -, -, hhost, -⟩ := accepted_eq_iff.1 (accepted_runSteps hl k s)
  exact ⟨finish_seq _ _, by simp [State.busy], (finish_params _ _).trans hparams, (finish_host _ _).trans hhost⟩

/-- Settles O8: the steps that remain are steps of the operation, and none of them writes the host's words. -/
theorem busyBlockCompletesAndAcceptsNothing : Obligations.BusyBlockCompletesAndAcceptsNothing := by
  intro s op k hseq
  rw [step_running hseq]
  exact ⟨fun h => ⟨_, resume_none h, finish_runSteps_completed (List.drop_subset _ _) k s⟩, fun r h => resume_some h⟩

/-! ## What the refusals rest on -/

/-- What the refusals of an operation rest on, whichever step they are taken from (R117 to R119, R222). -/
def State.hazard (s : State) : Variant → Op → Bool
  | .serial, .setup | .serial, .disable => s.unsafeShutdown
  | .serial, .read | .serial, .write => !s.transport.on
  | .parallel, .init => s.initContends
  | .parallel, .read => s.readContends
  | .parallel, .write => s.writeContends
  | .serial, .init | .parallel, .setup | .parallel, .disable => false

/-- Contention that is there already is a hazard of each operation that meets any (R65, R222). -/
theorem not_contended {s : State} (h : s.initContends = false ∨ s.readContends = false ∨ s.writeContends = false) :
    s.contended = false := by
  by_contra hcon
  obtain ⟨hinit, hread, hwrite⟩ := contended_le (Bool.not_eq_false _ ▸ hcon)
  simp [hinit, hread, hwrite] at h

/-- Without its hazard an operation is refused from none of its steps on. -/
theorem stopAt_of_no_hazard {s : State} {op : Op} (h : s.hazard s.params.variant op = false) (k : Nat) :
    s.stopAt op k = none := by
  cases hv : s.params.variant <;> cases op <;> rw [hv] at h
  case serial.setup => simp [State.stopAt, hv, show s.unsafeShutdown = false from h]
  case serial.init => simp [State.stopAt, hv]
  case serial.read => simp [State.stopAt, hv, show (!s.transport.on) = false from h]
  case serial.write => simp [State.stopAt, hv, show (!s.transport.on) = false from h]
  case serial.disable => exact stopAt_disable h hv k
  case parallel.setup => exact stopAt_parallel hv (.inl rfl) k
  case parallel.init => simp [State.stopAt, hv, show s.initContends = false from h, not_contended (.inl h)]
  case parallel.read => simp [State.stopAt, hv, show s.readContends = false from h, not_contended (.inr (.inl h))]
  case parallel.write => simp [State.stopAt, hv, show s.writeContends = false from h, not_contended (.inr (.inr h))]
  case parallel.disable => exact stopAt_parallel hv (.inr rfl) k

/-- An operation that is not refused at its start has no hazard there, but for the serial setup, whose step 1 clears its own. -/
theorem no_hazard_of_stopAt {s : State} {op : Op} (h : s.stopAt op 1 = none)
    (hsetup : ¬ (s.params.variant = .serial ∧ op = .setup)) : s.hazard s.params.variant op = false := by
  cases hv : s.params.variant <;> cases op
  case serial.setup => exact absurd ⟨hv, rfl⟩ hsetup
  case serial.init => rfl
  case serial.read => simpa [State.hazard, stopAt_bus hv (.inl rfl)] using h
  case serial.write => simpa [State.hazard, stopAt_bus hv (.inr rfl)] using h
  case serial.disable => simpa [State.hazard, State.stopAt, hv] using h
  case parallel.setup => rfl
  case parallel.init => simpa [State.hazard, stopAt_init hv] using h
  case parallel.read => simpa [State.hazard, stopAt_read hv] using h
  case parallel.write => simpa [State.hazard, stopAt_write hv] using h
  case parallel.disable => rfl

/-! ## The steps keep the hazard away -/

@[simp] theorem hazard_atSeq (q : Seq) (s : State) (v : Variant) (op : Op) : (atSeq q s).hazard v op = s.hazard v op := rfl

@[simp] theorem hazard_accept (op : Op) (s : State) (v : Variant) : (accept op s).hazard v op = s.hazard v op := rfl

@[simp] theorem stopTransport_started (s : State) : (stopTransport s).started = false := by
  cases h : s.started <;> simp [stopTransport, h]

@[simp] theorem floatSerial_started (s : State) : (floatSerial s).started = s.started :=
  foldl_keeps State.started _ (fun s l => pinModeSer_started l .input s) _ s

@[simp] theorem floatSerial_transport (s : State) : (floatSerial s).transport = s.transport :=
  foldl_keeps State.transport _ (fun s l => pinModeSer_transport l .input s) _ s

/-- An init writes neither `DIR[PWREN]` nor a data line, and `LAT[OE]` only to 1 (R172). -/
theorem initContends_pInitSteps : ∀ f ∈ pInitSteps, ∀ s, s.initContends = false → (f s).initContends = false := by
  simp [pInitSteps, State.initContends, drive, ParallelLines.set, ParallelLines.get, dataAll_iff]

/-- A readByte writes no direction, and `PWREN` not at all (R173). -/
theorem readContends_pReadSteps : ∀ f ∈ pReadSteps, ∀ s, s.readContends = false → (f s).readContends = false := by
  simp [pReadSteps, latchAddr, takeSample, State.readContends, ParallelLines.powered, ParallelLines.set,
    ParallelLines.get, dataAll_iff]

/-- A writeByte writes neither `OE` nor `PWREN` (R174). -/
theorem writeContends_pWriteSteps : ∀ f ∈ pWriteSteps, ∀ s, s.writeContends = false → (f s).writeContends = false := by
  simp [pWriteSteps, latchAddr, State.writeContends, ParallelLines.powered, ParallelLines.set, ParallelLines.get]

/-- No step of an operation brings its hazard about. -/
theorem hazard_stepsOf (v : Variant) (op : Op) :
    ∀ f ∈ stepsOf v op, ∀ s, s.hazard v op = false → (f s).hazard v op = false := by
  cases v <;> cases op
  case serial.setup => simp [stepsOf, sSetupSteps, State.hazard, State.unsafeShutdown, callSDisable, sDisableSteps]
  case serial.init => exact fun _ _ _ _ => rfl
  case serial.read => simp [stepsOf, sReadSteps, State.hazard, sendAddress, requestByte, takeAnswer]
  case serial.write => simp [stepsOf, sWriteSteps, State.hazard, sendWrite]
  case serial.disable => simp [stepsOf, sDisableSteps, State.hazard, State.unsafeShutdown]
  case parallel.setup => exact fun _ _ _ _ => rfl
  case parallel.init => exact initContends_pInitSteps
  case parallel.read => exact readContends_pReadSteps
  case parallel.write => exact writeContends_pWriteSteps
  case parallel.disable => exact fun _ _ _ _ => rfl

theorem hazard_runSteps {v : Variant} {op : Op} {l : List (State → State)} (hl : l ⊆ stepsOf v op) (k : Nat) {s : State}
    (h : s.hazard v op = false) : (runSteps op l k s).hazard v op = false :=
  @runSteps_keeps (fun t => t.hazard v op = false) op l (fun _ _ ht => ht) (fun f hf => hazard_stepsOf v op f (hl hf)) k s h

/-! ## An operation stopped after any of its steps -/

/-- An operation that is not refused at its start has no hazard once one step or more are taken. -/
theorem hazard_after_steps {s : State} {op : Op} (h : s.stopAt op 1 = none) (k : Nat) :
    (runSteps op ((stepsOf s.params.variant op).take (k + 1)) 1 (accept op s)).hazard s.params.variant op = false := by
  by_cases hsetup : s.params.variant = .serial ∧ op = .setup
  · obtain ⟨hv, rfl⟩ := hsetup
    rw [hv]
    have hfirst : (setStarted false (accept .setup s)).hazard .serial .setup = false := by
      simp [State.hazard, State.unsafeShutdown]
    have hrest : [callSDisable].take k ⊆ stepsOf .serial .setup :=
      List.Subset.trans (List.take_subset _ _) (List.subset_cons_self _ _)
    exact hazard_runSteps hrest 2 hfirst
  · exact hazard_runSteps (List.take_subset _ _) 1 (no_hazard_of_stopAt h hsetup)

/-- An operation that is not refused at its start is not refused from any later step on either. -/
theorem stopAt_after_steps {s : State} {op : Op} (h : s.stopAt op 1 = none) (k : Nat) :
    (runSteps op ((stepsOf s.params.variant op).take k) 1 (accept op s)).stopAt op (k + 1) = none := by
  cases k with
  | zero => exact h
  | succ k =>
    refine stopAt_of_no_hazard ?_ _
    rw [params_runSteps (List.take_subset _ _)]
    exact hazard_after_steps h k

/-- After the steps `l` the sequencer stands at the step that follows (R24). -/
theorem runSteps_seq (op : Op) (l : List (State → State)) (k : Nat) {s : State} (h : s.seq = .running op k) :
    (runSteps op l k s).seq = .running op (k + l.length) := by
  induction l generalizing k s with
  | nil => exact h
  | cons f l ih => rw [runSteps, ih (k + 1) (atSeq_seq _ _), List.length_cons, Nat.add_right_comm, Nat.add_assoc]

/-- Settles O11: the steps taken and the steps left are the operation's steps, and no step taken has brought a refusal about. -/
theorem sequencerResumesAtAnyStep : Obligations.SequencerResumesAtAnyStep := by
  intro i s t k hv hk hexec
  obtain ⟨-, hstop, rfl⟩ := exec_next hexec
  have hvariant : (loadOperands i s).params.variant = i.variant := by rw [loadOperands_params, hv]
  have hlen : ((stepsOf i.variant i.op).take k).length = k := List.length_take_of_le hk
  have hseq := runSteps_seq i.op ((stepsOf i.variant i.op).take k) 1 (accept_seq i.op (loadOperands i s))
  have hnone := stopAt_after_steps ((stopAt_loadOperands i s i.op 1).trans hstop) k
  rw [hvariant] at hnone
  rw [hlen, Nat.add_comm] at hseq
  rw [step_running hseq, resume_none hnone, params_runSteps (List.take_subset _ _), accept_params, hvariant,
    Nat.add_sub_cancel, operate]
  conv_rhs => rw [← List.take_append_drop k (stepsOf i.variant i.op), runSteps_append, hlen, Nat.add_comm]

end Sys2Proof.Machine
end

section
/-! What every step keeps of the reference chip's data (spec/20_memory.md R52, R67) and of the time of the last power-on
(spec/10_state.md R39): each micro-operation keeps both, so every step does. -/

namespace Sys2Proof.Machine

/-! ## The cells and the pointer -/

/-- The array is in canonical form over the cells the chip has (R52), and the pointer names one of them (R67). -/
structure CellsOk (s : State) : Prop where
  canonical : Memory.wf s.chip.mem = true
  listed : Memory.within (2 ^ s.params.addrBits) s.chip.mem = true
  pointer : s.chip.ptr < 2 ^ s.params.addrBits

theorem sound_iff {s : State} : s.sound = true ↔ CellsOk s ∧ s.pwrenLowAt ≤ s.now := by
  simp only [State.sound, Bool.and_eq_true, decide_eq_true_eq]
  exact ⟨fun ⟨⟨⟨hwf, hin⟩, hptr⟩, hlow⟩ => ⟨⟨hwf, hin, hptr⟩, hlow⟩, fun ⟨⟨hwf, hin, hptr⟩, hlow⟩ => ⟨⟨⟨hwf, hin⟩, hptr⟩, hlow⟩⟩

/-- The cells rest on the parameters, the array and the pointer only. -/
theorem CellsOk.congr {s t : State} (h : CellsOk s) (hparams : t.params = s.params) (hmem : t.chip.mem = s.chip.mem)
    (hptr : t.chip.ptr = s.chip.ptr) : CellsOk t :=
  ⟨hmem ▸ h.canonical, by rw [hparams, hmem]; exact h.listed, by rw [hparams, hptr]; exact h.pointer⟩

/-- So do what keeps the parameters and the chip. -/
theorem CellsOk.same_chip {s t : State} (h : CellsOk s) (hparams : t.params = s.params) (hchip : t.chip = s.chip) :
    CellsOk t := h.congr hparams (congrArg Chip.mem hchip) (congrArg Chip.ptr hchip)

/-- A store goes to a cell the chip has (R52). -/
theorem CellsOk.memWrite {s : State} (h : CellsOk s) (a : Addr) (v : Byte) : CellsOk (s.memWrite a v) :=
  ⟨Memory.write_wf h.canonical, Memory.write_within h.listed (cell_lt _ _), h.pointer⟩

/-- The pointer may come to name any cell the chip has (R67, R68, R70). -/
theorem CellsOk.movePointer {s t : State} (h : CellsOk s) (hparams : t.params = s.params) (hmem : t.chip.mem = s.chip.mem)
    (hptr : t.chip.ptr < 2 ^ s.params.addrBits) : CellsOk t :=
  ⟨hmem ▸ h.canonical, by rw [hparams, hmem]; exact h.listed, hparams ▸ hptr⟩

/-! ### What is wired to the lines -/

theorem CellsOk.endPulse {s : State} (h : CellsOk s) (certain : Bool) : CellsOk (s.endPulse certain) := by
  unfold State.endPulse
  split
  · exact h
  · exact (h.memWrite _ _).congr rfl rfl rfl

theorem CellsOk.setPulse {s : State} (h : CellsOk s) (p : Pulse) : CellsOk (s.setPulse p) := h.congr rfl rfl rfl

/-- A change of `WE` at most stores a byte (R66). -/
theorem CellsOk.clockWrite {s : State} (h : CellsOk s) (a b : Level) : CellsOk (s.clockWrite a b) := by
  unfold State.clockWrite
  repeat' split
  all_goals first | exact h | exact h.setPulse _ | exact (h.endPulse _).setPulse _

/-- Power moves at most the pointer, to a cell of the chip (R67, R203). -/
theorem CellsOk.powerChange {s : State} (h : CellsOk s) (was on : Bool) (n : Nat) : CellsOk (s.powerChange was on n) := by
  cases was <;> cases on
  case false.true => exact h.movePointer rfl rfl (cell_lt _ _)
  case true.false => exact h.congr rfl rfl rfl
  case false.false => exact h
  case true.true => exact h

theorem CellsOk.putSerial {s : State} (h : CellsOk s) (l : SLine) (r : LineReg) : CellsOk (s.putSerial l r) :=
  (h.same_chip (t := { s with serial := s.serial.set l r }) rfl rfl).powerChange _ _ _

/-- Of the parallel lines the chip sees `WE` and `PWREN` (R64, R66, R123). -/
theorem CellsOk.putParallel {s : State} (h : CellsOk s) (l : PLine) (r : LineReg) : CellsOk (s.putParallel l r) := by
  by_cases hwe : l = .we
  · subst hwe
    refine CellsOk.clockWrite ?_ _ _
    exact h.same_chip rfl rfl
  by_cases hpwren : l = .pwren
  · subst hpwren
    refine CellsOk.powerChange ?_ _ _ _
    exact h.same_chip rfl rfl
  · exact h.same_chip (putParallel_params l r s) (putParallel_chip hwe hpwren r s)

theorem CellsOk.putLine {s : State} (h : CellsOk s) (l : Line) (r : LineReg) : CellsOk (s.putLine l r) := by
  cases l with
  | ser l => exact h.putSerial l r
  | par l => exact h.putParallel l r

/-! ### The serial bus -/

/-- The data byte of a write frame is stored at most (R69). -/
theorem CellsOk.storeByte {s : State} (h : CellsOk s) (a : Addr) (x : Byte) : CellsOk (s.storeByte a x) := by
  unfold State.storeByte
  split
  · exact h
  · exact (h.memWrite a x).congr rfl rfl rfl

theorem CellsOk.setPointer {s : State} (h : CellsOk s) (a : Addr) : CellsOk (s.setPointer a) :=
  h.movePointer rfl rfl (cell_lt _ _)

theorem CellsOk.takeFrame {s : State} (h : CellsOk s) (bytes : List Byte) : CellsOk (s.takeFrame bytes) := by
  unfold State.takeFrame
  split
  · exact h.setPointer _
  · exact (h.setPointer _).storeByte _ _
  · exact h

theorem CellsOk.busWrite {s : State} (h : CellsOk s) (dev : DevAddr) (bytes : List Byte) (stop : Bool) :
    CellsOk (busWrite dev bytes stop s) := by
  have ht : CellsOk ((s.emit (.busWrite dev bytes stop)).tick 0) := h.same_chip rfl rfl
  unfold Machine.busWrite
  simp only []
  split
  · exact (ht.takeFrame bytes).same_chip rfl rfl
  · exact ht.same_chip rfl rfl

/-- The pointer advances within the chip's cells (R70). -/
theorem CellsOk.busRequest {s : State} (h : CellsOk s) (dev : DevAddr) : CellsOk (busRequest dev s) := by
  cases hr : s.responds dev with
  | false => exact h.same_chip (busRequest_params dev s) (by simp [Machine.busRequest, hr])
  | true =>
    refine h.movePointer (busRequest_params dev s) (busRequest_mem dev s) ?_
    simpa [Machine.busRequest, hr] using Nat.mod_lt _ (Nat.two_pow_pos _)

/-! ## Every step -/

/-- The array that is left outside the Active phase is free, but canonical over the chip's cells (U1, R232). -/
theorem cellsOk_loseEeprom (s : State) : CellsOk (loseEeprom s) :=
  ⟨(Memory.ofCells_ok _ _).1, (Memory.ofCells_ok _ _).2, cell_lt _ _⟩

theorem cellsOk_closed : Closed CellsOk where
  pinMode l _ _ h := (h.putLine l _).same_chip rfl rfl
  pinSet l _ _ h := (h.putLine l _).same_chip rfl rfl
  pinGet _ _ h := h.same_chip rfl rfl
  delayUs _ _ h := h.same_chip rfl rfl
  delayMs _ _ h := h.same_chip rfl rfl
  busBegin _ _ h := h.same_chip rfl rfl
  busEnd _ h := h.same_chip rfl rfl
  busWrite dev bytes stop _ h := h.busWrite dev bytes stop
  busRequest dev _ h := h.busRequest dev
  setStarted _ _ h := h.same_chip rfl rfl
  setRdata v _ h := h.same_chip (setRdata_params v _) (setRdata_chip v _)
  noSamples _ h := h.same_chip rfl rfl
  atSeq _ _ h := h.same_chip rfl rfl
  loseEeprom s _ := cellsOk_loseEeprom s
  setAddr _ _ h := h.same_chip rfl rfl
  setWdata _ _ h := h.same_chip rfl rfl
  accept _ _ h := h.same_chip rfl rfl
  setHost _ _ h := h.same_chip rfl rfl

/-- The time a micro-operation takes does not bring the last fall of `LAT[PWREN]` into the future (R39, R114). -/
theorem lowAt_le_of_later {s t : State} (h : s.pwrenLowAt ≤ s.now) (hlow : t.pwrenLowAt = s.pwrenLowAt) (hnow : s.now ≤ t.now) :
    t.pwrenLowAt ≤ t.now := hlow ▸ h.trans hnow

theorem pinSet_lowAt_le {s : State} (h : s.pwrenLowAt ≤ s.now) (l : Line) (v : Bool) :
    (pinSet l v s).pwrenLowAt ≤ (pinSet l v s).now := by
  cases l with
  | ser l => exact lowAt_le_of_later h (pinSetSer_pwrenLowAt l v s) (pinSet_records _ v s).now
  | par l => exact (pinSetPar_pwrenLowAt_le h l v).trans (pinSet_records _ v s).now

theorem pinMode_pwrenLowAt (l : Line) (d : Dir) (s : State) : (pinMode l d s).pwrenLowAt = s.pwrenLowAt := by
  cases l with
  | ser l => exact pinModeSer_pwrenLowAt l d s
  | par l => exact pinModePar_pwrenLowAt l d s

theorem lowAtPast_closed : Closed fun s => s.pwrenLowAt ≤ s.now where
  pinMode l d s h := lowAt_le_of_later h (pinMode_pwrenLowAt l d s) (pinMode_records l d s).now
  pinSet l v _ h := pinSet_lowAt_le h l v
  pinGet l s h := lowAt_le_of_later h rfl (pinGet_records l s).now
  delayUs n s h := lowAt_le_of_later h rfl (delayUs_records n s).now
  delayMs n s h := lowAt_le_of_later h rfl (delayMs_records n s).now
  busBegin r s h := lowAt_le_of_later h rfl (busBegin_records r s).now
  busEnd s h := lowAt_le_of_later h rfl (busEnd_records s).now
  busWrite dev bs stop s h := lowAt_le_of_later h (busWrite_pwrenLowAt dev bs stop s) (busWrite_records dev bs stop s).now
  busRequest dev s h := lowAt_le_of_later h (busRequest_pwrenLowAt dev s) (busRequest_records dev s).now
  setStarted _ _ h := h
  setRdata v s h := lowAt_le_of_later h (setRdata_pwrenLowAt v s) (setRdata_keepsTrace v s).now.ge
  noSamples _ h := h
  atSeq _ _ h := h
  loseEeprom _ h := h
  setAddr _ _ h := h
  setWdata _ _ h := h
  accept _ _ h := h
  setHost _ _ h := h

/-- Whatever the instruction, it keeps a sound state sound. -/
theorem sound_exec {i : Instr} {s t : State} (h : exec i s = .next t) (hs : s.sound = true) : t.sound = true := by
  obtain ⟨hcells, hlow⟩ := sound_iff.1 hs
  exact sound_iff.2 ⟨closed_exec cellsOk_closed h hcells, closed_exec lowAtPast_closed h hlow⟩

/-- Settles O50: every micro-operation keeps the cells, the pointer and the past, so every step keeps them. -/
theorem soundStateIsKept : Obligations.SoundStateIsKept := by
  intro s t hs hstep
  obtain ⟨hcells, hlow⟩ := sound_iff.1 hs
  exact sound_iff.2 ⟨closed_step cellsOk_closed hstep hcells, closed_step lowAtPast_closed hstep hlow⟩

end Sys2Proof.Machine
end

section
/-! The reference chip at its power line and at its write-protect line (spec/20_memory.md R64, R67 to R69, 60_exceptions.md
R203). -/

namespace Sys2Proof.Machine

/-! ## A byte stored -/

/-- Where the array of `t` is that of `s` with `x` stored at the address `a`, `a` reads as `x` and every other cell as before
(R52). -/
theorem stored_of_mem {s t : State} {a : Addr} {x : Byte} (hcells : CellsOk s) (hparams : t.params = s.params)
    (hmem : t.chip.mem = Memory.write s.chip.mem (cell s.params a) x) : t.memRead a = x ∧ SameMemExcept a s t := by
  refine ⟨?_, fun b hb => ?_⟩
  · simp only [State.memRead, hparams, hmem]
    exact Memory.read_write_same hcells.canonical
  · simp only [State.memRead, hparams, hmem]
    exact Memory.read_write_other hb

/-- So any address reads as `x` or as before, as its cell is the one written or not. -/
theorem memRead_of_stored {s t : State} {a : Addr} {x : Byte} (hparams : t.params = s.params) (hsame : t.memRead a = x)
    (hother : SameMemExcept a s t) (b : Addr) :
    t.memRead b = if cell s.params b = cell s.params a then x else s.memRead b := by
  split
  next hcell => rw [← hsame, State.memRead, State.memRead, hparams, hcell]
  next hcell => exact hother b hcell

/-! ## Write-protect -/

/-- Settles O20: an output write-protect line is driven low or high, and each is one of the two laws of the write frame. -/
theorem writeProtectGuardsDataNotAddress : Obligations.WriteProtectGuardsDataNotAddress := by
  intro s a x hresponds hsound hdir
  obtain ⟨hcells, -⟩ := sound_iff.1 hsound
  cases hlat : s.serial.wp.lat with
  | true =>
    have hchip := busWrite_protected_chip hresponds (show s.serial.wp = ⟨.output, true⟩ by rw [← hdir, ← hlat]) a x true
    refine ⟨congrArg Chip.ptr hchip, fun _ b => ?_, nofun⟩
    simp only [State.memRead, busWrite_params, hchip]
  | false =>
    have hchip := busWrite_write_chip hresponds (show s.serial.wp = ⟨.output, false⟩ by rw [← hdir, ← hlat]) a x true
    obtain ⟨hsame, hother⟩ := stored_of_mem hcells (busWrite_params _ _ _ s) (congrArg Chip.mem hchip)
    exact ⟨congrArg Chip.ptr hchip, nofun, fun _ => ⟨hsame, hother, by rw [hchip, busWrite_now]⟩⟩

/-! ## Power -/

/-- A chip without power: not ready, no write cycle, no write pulse (R203). -/
def Chip.unpowered (c : Chip) : Chip := { c with rdyAt := none, wbusyUntil := 0, pulse := .idle }

/-- A chip powered up at the time `n`, its pointer at `p`: ready from then on (R64, R67). -/
def Chip.poweredUp (n p : Nat) (c : Chip) : Chip := { c with rdyAt := some n, ptr := p, pulse := .idle }

/-- Cutting the serial power line cuts the chip's power (R67, R203). -/
theorem putSerial_pwr_cut {s : State} (h : s.serial.powered = true) {r : LineReg} (hr : r ≠ ⟨.output, true⟩) :
    (s.putSerial .pwr r).chip = s.chip.unpowered := by
  have hoff : (s.serial.set .pwr r).powered = false := decide_eq_false hr
  simp only [State.putSerial, h, hoff]
  rfl

/-- Cutting the parallel power line does (R64, R203). -/
theorem putParallel_pwren_cut {s : State} (h : s.parallel.powered = true) {r : LineReg} (hr : r ≠ ⟨.output, false⟩) :
    (s.putParallel .pwren r).chip = s.chip.unpowered := by
  have hoff : (s.parallel.set .pwren r).powered = false := decide_eq_false hr
  simp only [State.putParallel, h, hoff]
  rfl

/-- Driving the serial power line high powers the chip up (R67). -/
theorem putSerial_pwr_apply {s : State} (h : s.serial.powered = false) {r : LineReg} (hr : r = ⟨.output, true⟩) :
    (s.putSerial .pwr r).serial.powered = true ∧ (s.putSerial .pwr r).chip =
      s.chip.poweredUp (s.now + s.params.tRdySer) (cell s.params (Config.freeAddr s.draws)) := by
  have hon : (s.serial.set .pwr r).powered = true := decide_eq_true hr
  refine ⟨by rw [putSerial_serial, hon], ?_⟩
  simp only [State.putSerial, h, hon]
  rfl

/-- Driving the parallel power line low does (R64). -/
theorem putParallel_pwren_apply {s : State} (h : s.parallel.powered = false) {r : LineReg} (hr : r = ⟨.output, false⟩) :
    (s.putParallel .pwren r).parallel.powered = true ∧ (s.putParallel .pwren r).chip =
      s.chip.poweredUp (s.now + s.params.tRdyPar) (cell s.params (Config.freeAddr s.draws)) := by
  have hon : (s.parallel.set .pwren r).powered = true := decide_eq_true hr
  refine ⟨by rw [putParallel_parallel, hon], ?_⟩
  simp only [State.putParallel, h, hon]
  rfl

/-! `PinSet` and `PinMode` write the registers, and what is wired to the line reacts; the event and the time come after (R123). -/

theorem pinSetSer_putSerial (l : SLine) (v : Bool) (s : State) :
    (pinSet (.ser l) v s).chip = (s.putSerial l { s.serial.get l with lat := v }).chip := by
  simp only [pinSet, State.putLine, State.line, tick_chip, emit_chip]

theorem pinModeSer_putSerial (l : SLine) (d : Dir) (s : State) :
    (pinMode (.ser l) d s).chip = (s.putSerial l { s.serial.get l with dir := d }).chip := by
  simp only [pinMode, State.putLine, State.line, tick_chip, emit_chip]

theorem pinSetPar_putParallel (l : PLine) (v : Bool) (s : State) :
    (pinSet (.par l) v s).chip = (s.putParallel l { s.parallel.get l with lat := v }).chip := by
  simp only [pinSet, State.putLine, State.line, tick_chip, emit_chip]

theorem pinModePar_putParallel (l : PLine) (d : Dir) (s : State) :
    (pinMode (.par l) d s).chip = (s.putParallel l { s.parallel.get l with dir := d }).chip := by
  simp only [pinMode, State.putLine, State.line, tick_chip, emit_chip]

/-- The line set high, for the serial chip (R67). -/
theorem pinSet_pwr_apply {s : State} (h : s.serial.pwr = ⟨.output, false⟩) : (pinSet (.ser .pwr) true s).serial.powered = true
    ∧ (pinSet (.ser .pwr) true s).chip =
      s.chip.poweredUp (s.now + s.params.tRdySer) (cell s.params (Config.freeAddr s.draws)) := by
  rw [pinSetSer_putSerial, pinSetSer_serial, ← putSerial_serial]
  exact putSerial_pwr_apply (by simp [SerialLines.powered, h]) (by simp [SerialLines.get, h])

/-- The line set low, for the parallel chip (R64). -/
theorem pinSet_pwren_apply {s : State} (h : s.parallel.pwren = ⟨.output, true⟩) :
    (pinSet (.par .pwren) false s).parallel.powered = true ∧ (pinSet (.par .pwren) false s).chip =
      s.chip.poweredUp (s.now + s.params.tRdyPar) (cell s.params (Config.freeAddr s.draws)) := by
  rw [pinSetPar_putParallel, pinSetPar_parallel, ← putParallel_parallel]
  exact putParallel_pwren_apply (by simp [ParallelLines.powered, h]) (by simp [ParallelLines.get, h])

/-- The line made an output while its latch is high, for the serial chip (log entry 16). -/
theorem pinMode_pwr_apply {s : State} (h : s.serial.pwr = ⟨.input, true⟩) : (pinMode (.ser .pwr) .output s).serial.powered = true
    ∧ (pinMode (.ser .pwr) .output s).chip =
      s.chip.poweredUp (s.now + s.params.tRdySer) (cell s.params (Config.freeAddr s.draws)) := by
  rw [pinModeSer_putSerial, pinModeSer_serial, ← putSerial_serial]
  exact putSerial_pwr_apply (by simp [SerialLines.powered, h]) (by simp [SerialLines.get, h])

/-- The line made an output while its latch is low, for the parallel chip (log entry 16). -/
theorem pinMode_pwren_apply {s : State} (h : s.parallel.pwren = ⟨.input, false⟩) :
    (pinMode (.par .pwren) .output s).parallel.powered = true ∧ (pinMode (.par .pwren) .output s).chip =
      s.chip.poweredUp (s.now + s.params.tRdyPar) (cell s.params (Config.freeAddr s.draws)) := by
  rw [pinModePar_putParallel, pinModePar_parallel, ← putParallel_parallel]
  exact putParallel_pwren_apply (by simp [ParallelLines.powered, h]) (by simp [ParallelLines.get, h])

/-- What a chip without power has lost, and what it keeps (R64, R203). -/
theorem lost_of_unpowered {s t : State} (hparams : t.params = s.params) (hchip : t.chip = s.chip.unpowered) :
    t.chip.rdyAt = none ∧ t.chip.wbusyUntil ≤ t.now ∧ t.chip.pulse = .idle ∧ t.deadlinesPast = false ∧ SameMem s t := by
  have hmem : SameMem s t := fun a => by simp only [State.memRead, hparams, hchip, Chip.unpowered]
  rw [hchip]
  exact ⟨rfl, Nat.zero_le _, rfl, by simp only [State.deadlinesPast, hchip, Chip.unpowered], hmem⟩

/-- What a chip that is powered up gains, and what it keeps (R64, R67). -/
theorem ready_of_poweredUp {s t : State} {n p : Nat} (hparams : t.params = s.params) (hchip : t.chip = s.chip.poweredUp n p) :
    t.chip.rdyAt = some n ∧ t.chip.wbusyUntil = s.chip.wbusyUntil ∧ SameMem s t := by
  have hmem : SameMem s t := fun a => by simp only [State.memRead, hparams, hchip, Chip.poweredUp]
  rw [hchip]
  exact ⟨rfl, rfl, hmem⟩

/-- Settles O21: each of the two ways to switch either chip's power line is a write of its registers that cuts or applies power. -/
theorem powerKeepsTheArrayAndLosesTheRest : Obligations.PowerKeepsTheArrayAndLosesTheRest := by
  refine ⟨?_, ?_, ?_, ?_⟩
  · rintro s hon t (rfl | rfl)
    · exact lost_of_unpowered (by simp) ((pinSetSer_putSerial _ _ _).trans (putSerial_pwr_cut hon (by simp)))
    · exact lost_of_unpowered (by simp) ((pinModeSer_putSerial _ _ _).trans (putSerial_pwr_cut hon (by simp)))
  · rintro s hon t (rfl | rfl)
    · exact lost_of_unpowered (by simp) ((pinSetPar_putParallel _ _ _).trans (putParallel_pwren_cut hon (by simp)))
    · exact lost_of_unpowered (by simp) ((pinModePar_putParallel _ _ _).trans (putParallel_pwren_cut hon (by simp)))
  · rintro s t (⟨hpwr, rfl⟩ | ⟨hpwr, rfl⟩)
    · exact (pinSet_pwr_apply hpwr).imp_right (ready_of_poweredUp (by simp))
    · exact (pinMode_pwr_apply hpwr).imp_right (ready_of_poweredUp (by simp))
  · rintro s t (⟨hpwren, rfl⟩ | ⟨hpwren, rfl⟩)
    · exact (pinSet_pwren_apply hpwren).imp_right (ready_of_poweredUp (by simp))
    · exact (pinMode_pwren_apply hpwren).imp_right (ready_of_poweredUp (by simp))

end Sys2Proof.Machine
end

section
/-! The serial variant as a memory (spec/20_memory.md R51, R68 to R74): what readByte returns and writeByte stores in the Active
phase, with a chip on the bus and without one. -/

namespace Sys2Proof.Machine

/-! ## When a chip is ready (20_memory.md R64, R71) -/

/-- The power-up time and the write cycle of the chip are both over `n` microseconds from now (R64). -/
def ReadyWithin (n : Nat) (s : State) : Prop :=
  ∃ r, s.chip.rdyAt = some r ∧ r ≤ s.now + n ∧ s.chip.wbusyUntil ≤ s.now + n

theorem readyWithin_zero_iff {s : State} : ReadyWithin 0 s ↔ s.deadlinesPast = true := by
  cases h : s.chip.rdyAt <;> simp [ReadyWithin, State.deadlinesPast, h]

/-- As time passes, what is left of the wait gets less (R114). -/
theorem ReadyWithin.elapse {n m : Nat} {s t : State} (h : ReadyWithin n s) (hchip : t.chip = s.chip)
    (hnow : s.now + n ≤ t.now + m) : ReadyWithin m t := by
  obtain ⟨r, hr, hrn, hwn⟩ := h
  exact ⟨r, hchip ▸ hr, hrn.trans hnow, hchip ▸ hwn.trans hnow⟩

theorem timely_iff {p : Params} : p.timely = true ↔ 1 ≤ p.addrBits ∧ p.addrBits ≤ 16
    ∧ p.tWcPar ≤ p.constants.tParWriteMs * 1000
    ∧ p.tWcSer ≤ (p.constants.tSerWriteMs + p.constants.tSerProtectMs) * 1000
    ∧ p.tRdyPar ≤ p.constants.tParPowerMs * 1000 ∧ p.tRdySer = 0 := by
  simp only [Params.timely, Bool.and_eq_true, decide_eq_true_eq, and_assoc]

/-! ## The Active phase of the serial variant (10_state.md R38) -/

theorem resultsDefined_serial {s : State} (hv : s.params.variant = .serial) :
    s.resultsDefined = true ↔ s.activeS = true ∧ s.transport.on = true := by
  simp [State.resultsDefined, hv]

/-- `Active_S` rests on the flag and the lines. -/
theorem activeS_congr {s t : State} (hstarted : t.started = s.started) (hserial : t.serial = s.serial) :
    t.activeS = s.activeS := by
  simp only [State.activeS, hstarted, hserial]

/-- In the Active phase on a started transport a chip that is there responds once its deadlines are past (R67). -/
theorem responds_eq_deadlinesPast {s : State} (hactive : s.activeS = true) (hon : s.transport.on = true)
    (hpresent : s.params.present = true) : s.responds (devAddr s.params) = s.deadlinesPast := by
  simp [activeS_responds hactive, hon, hpresent]

/-- No chip, no response (R67, R74). -/
theorem responds_absent {s : State} (h : s.params.present = false) (dev : DevAddr) : s.responds dev = false := by
  simp [State.responds, h]

theorem responds_present {dev : DevAddr} {s : State} (h : s.responds dev = true) :
    s.params.present = true ∧ s.deadlinesPast = true := by
  simp only [State.responds, Bool.and_eq_true] at h
  obtain ⟨⟨⟨⟨⟨-, hpresent⟩, -⟩, hpast⟩, -⟩, -⟩ := h
  exact ⟨hpresent, hpast⟩

/-! ## readByte -/

/-- `S.READ` in the Active phase (R152): its result is what the bus yields after the address frame, whatever that is. -/
theorem sRead_active {s : State} (a : Addr) (hv : s.params.variant = .serial) (hd : s.resultsDefined = true) :
    ∃ t u, exec (.sRead a) s = .next t
      ∧ u = busWrite (devAddr s.params) (addressFrame a) false (accept .read (setAddr a s))
      ∧ t.rdata = (u.requestAnswer (devAddr s.params)).headD s.params.constants.readSentinel
      ∧ t.trace = s.trace ++ sReadEvents s.params a (u.requestAnswer (devAddr s.params))
      ∧ SameMem s t ∧ t.serial = s.serial := by
  obtain ⟨-, hon⟩ := (resultsDefined_serial hv).1 hd
  refine ⟨_, _, exec_sRead hv hon, rfl, ?_, ?_, fun b => ?_, ?_⟩
  · simp [operate, runSteps, sReadSteps, sendAddress, requestByte, takeAnswer, setRdata, hd]
  · simp [operate, runSteps, sReadSteps, sendAddress, requestByte, takeAnswer, State.trace, sReadEvents, addressFrame]
  · simp [operate, runSteps, sReadSteps, sendAddress, requestByte, takeAnswer, finish, hd, State.memRead]
  · simp [operate, runSteps, sReadSteps, sendAddress, requestByte, takeAnswer]

/-- From the Active phase with a responding chip, `S.READ` returns the byte stored at the address (R68, R70). -/
theorem sRead_stored {s : State} (a : Addr) (hv : s.params.variant = .serial) (hd : s.resultsDefined = true)
    (hr : s.responds (devAddr s.params) = true) : ∃ t, exec (.sRead a) s = .next t ∧ t.rdata = s.memRead a := by
  obtain ⟨hactive, hon⟩ := (resultsDefined_serial hv).1 hd
  obtain ⟨hpresent, hpast⟩ := responds_present hr
  obtain ⟨t, u, hexec, hu, hrdata, -⟩ := sRead_active a hv hd
  have hchip : u.chip = { s.chip with ptr := cell s.params a } := by
    rw [hu]
    exact busWrite_address_chip (s := accept .read (setAddr a s)) hr a false
  have hparams : u.params = s.params := by simp [hu]
  have hur : u.responds (devAddr s.params) = true := by
    have hactive' : u.activeS = true := (activeS_congr (by simp [hu]) (by simp [hu])).trans hactive
    rw [← hparams, responds_eq_deadlinesPast hactive' (by simp [hu, hon]) (hparams ▸ hpresent)]
    have hnow : s.now ≤ u.now := by simp [hu]
    exact deadlinesPast_later hpast (by rw [hchip]) (by rw [hchip]; exact (deadlinesPast_wbusy hpast).trans hnow) hnow
  refine ⟨t, hexec, ?_⟩
  rw [hrdata, requestAnswer_responds hur, hchip]
  rfl

/-- Settles O26: no chip takes the address, none answers the request, and the answer's absence reads as the sentinel. -/
theorem serialReadOfAbsentDeviceIsFF : Obligations.SerialReadOfAbsentDeviceIsFF := by
  intro a s hv hd habsent
  obtain ⟨-, hon⟩ := (resultsDefined_serial hv).1 hd
  obtain ⟨t, u, hexec, hu, hrdata, htrace, hmem, hserial⟩ := sRead_active a hv hd
  have hsilent : u.requestAnswer (devAddr s.params) = [] :=
    requestAnswer_silent (by simp [hu, hon]) (responds_absent (by simp [hu, habsent]) _)
  rw [hsilent] at hrdata htrace
  exact ⟨t, hexec, hrdata, fun hgiven => by rw [hrdata, hgiven]; rfl, htrace, hmem, hserial⟩

/-! ## writeByte -/

/-- `w` is `s` with write-protect driven low, as the write frame finds it (R153 steps 1 and 2). -/
structure ProtectReleased (s w : State) : Prop where
  params : w.params = s.params
  chip : w.chip = s.chip
  started : w.started = s.started
  transport : w.transport = s.transport
  serial : w.serial = { s.serial with wp := ⟨.output, false⟩ }
  now : s.now ≤ w.now

theorem activeS_wp {s : State} (h : s.activeS = true) : s.serial.wp = ⟨.output, true⟩ := by
  simp only [State.activeS, Bool.and_eq_true, decide_eq_true_eq] at h
  obtain ⟨⟨⟨⟨⟨-, -⟩, hwp⟩, -⟩, -⟩, -⟩ := h
  exact hwp

/-- `s` under `S.WRITE` when the write frame is to go out (R153 steps 1 and 2). -/
def beforeFrame (a : Addr) (x : Byte) (s : State) : State :=
  runSteps .write (sWriteSteps.take 2) 1 (accept .write (setWdata x (setAddr a s)))

theorem beforeFrame_released {s : State} (a : Addr) (x : Byte) (hactive : s.activeS = true) :
    ProtectReleased s (beforeFrame a x s) where
  params := by simp [beforeFrame, runSteps, sWriteSteps]
  chip := by simp [beforeFrame, runSteps, sWriteSteps]
  started := by simp [beforeFrame, runSteps, sWriteSteps]
  transport := by simp [beforeFrame, runSteps, sWriteSteps]
  serial := by simp [beforeFrame, runSteps, sWriteSteps, SerialLines.set, SerialLines.get, activeS_wp hactive]
  now := by
    simp [beforeFrame, runSteps, sWriteSteps]
    omega

/-- `S.WRITE` in the Active phase (R153): once the write frame is out, nothing but time and write-protect changes, and the phase is
Active again. -/
theorem sWrite_active {s : State} (a : Addr) (x : Byte) (hv : s.params.variant = .serial) (hd : s.resultsDefined = true) :
    ∃ t u, exec (.sWrite a x) s = .next t
      ∧ u = busWrite (devAddr s.params) (writeFrame a x) true (beforeFrame a x s)
      ∧ t.chip = u.chip
      ∧ u.now + (s.params.constants.tSerWriteMs + s.params.constants.tSerProtectMs) * 1000 ≤ t.now
      ∧ t.params = s.params ∧ t.started = s.started ∧ t.transport.on = true
      ∧ t.trace = s.trace ++ sWriteEvents s.params a x ∧ t.serial = s.serial := by
  obtain ⟨hactive, hon⟩ := (resultsDefined_serial hv).1 hd
  refine ⟨_, _, exec_sWrite hv hon, rfl, ?_, ?_, ?_, ?_, ?_, ?_, ?_⟩
  · simp [operate, runSteps, sWriteSteps, sendWrite, beforeFrame, finish, hd]
  · simp [operate, runSteps, sWriteSteps, sendWrite, beforeFrame]
    omega
  · simp [operate, runSteps, sWriteSteps, sendWrite]
  · simp [operate, runSteps, sWriteSteps, sendWrite]
  · simp [operate, runSteps, sWriteSteps, sendWrite, hon]
  · simp [operate, runSteps, sWriteSteps, sendWrite, State.trace, sWriteEvents, writeFrame]
  · simp [operate, runSteps, sWriteSteps, sendWrite, SerialLines.set, SerialLines.get, activeS_wp hactive]
    rw [← activeS_wp hactive]

/-- Settles O29: the write frame reaches no chip, and nothing else of a writeByte touches the array. -/
theorem serialWriteToAbsentDeviceStoresNothing : Obligations.SerialWriteToAbsentDeviceStoresNothing := by
  intro a x s hv hd habsent
  have hw := beforeFrame_released a x ((resultsDefined_serial hv).1 hd).1
  obtain ⟨t, u, hexec, hu, hchip, -, hparams, -, -, htrace, hserial⟩ := sWrite_active a x hv hd
  have hsilent : u.chip = s.chip := by
    rw [hu, busWrite_chip_silent (responds_absent (hw.params ▸ habsent) _), hw.chip]
  exact ⟨t, hexec, htrace, fun b => by simp only [State.memRead, hparams, hchip, hsilent], hserial⟩

/-- Releasing write-protect does not change whether the chip responds: a response does not rest on that line (R67, R68). -/
theorem ProtectReleased.responds {s w : State} (h : ProtectReleased s w) (hactive : s.activeS = true)
    (hon : s.transport.on = true) (hr : s.responds (devAddr s.params) = true) : w.responds (devAddr s.params) = true := by
  obtain ⟨hpresent, hpast⟩ := responds_present hr
  have hpast' : w.deadlinesPast = true := deadlinesPast_later hpast (by rw [h.chip])
    (by rw [h.chip]; exact (deadlinesPast_wbusy hpast).trans h.now) h.now
  have hback : w.responds (devAddr s.params) = ({ w with serial := s.serial } : State).responds (devAddr s.params) := by
    simp only [State.responds, State.selected, State.observe, State.eff, SerialLines.get, SerialLines.powered, h.serial,
      State.deadlinesPast]
  have hactive' := (activeS_congr (t := { w with serial := s.serial }) h.started rfl).trans hactive
  rw [hback, ← h.params]
  exact (responds_eq_deadlinesPast hactive' (h.transport ▸ hon) (h.params ▸ hpresent)).trans hpast'

/-- From the Active phase with a responding chip within the time bounds of R71, `S.WRITE` stores the byte in the addressed cell and
nowhere else (R69), and ends in the Active phase with a chip that responds again. -/
theorem sWrite_stored {s : State} (a : Addr) (x : Byte) (hv : s.params.variant = .serial) (hd : s.resultsDefined = true)
    (hs : s.sound = true) (hr : s.responds (devAddr s.params) = true) (htimely : s.params.timely = true) :
    ∃ t, exec (.sWrite a x) s = .next t ∧ t.params = s.params ∧ t.resultsDefined = true
      ∧ t.responds (devAddr s.params) = true ∧ t.memRead a = x ∧ SameMemExcept a s t := by
  obtain ⟨hactive, hon⟩ := (resultsDefined_serial hv).1 hd
  obtain ⟨hpresent, hpast⟩ := responds_present hr
  obtain ⟨hcells, -⟩ := sound_iff.1 hs
  obtain ⟨-, -, -, htwc, -, -⟩ := timely_iff.1 htimely
  have hw := beforeFrame_released a x hactive
  obtain ⟨t, u, hexec, hu, hchip, hnow, hparams, hstarted, hon', -, hserial⟩ := sWrite_active a x hv hd
  have hframe := busWrite_write_chip (hw.responds hactive hon hr) (by rw [hw.serial]) a x true
  rw [← hu, hw.chip, hw.params] at hframe
  have hready : ReadyWithin s.params.tWcSer u := by
    obtain ⟨r, hr, hrn, -⟩ := readyWithin_zero_iff.2 hpast
    have hwu := busWrite_now (devAddr s.params) (writeFrame a x) true (beforeFrame a x s)
    rw [← hu] at hwu
    have hlater := hw.now
    exact ⟨r, by rw [hframe]; exact hr, by omega, by rw [hframe, hwu]⟩
  have hpast' : t.deadlinesPast = true := readyWithin_zero_iff.1 (hready.elapse hchip (by omega))
  have hactive' : t.activeS = true := (activeS_congr hstarted hserial).trans hactive
  refine ⟨t, hexec, hparams, (resultsDefined_serial (hparams ▸ hv)).2 ⟨hactive', hon'⟩, ?_,
    stored_of_mem hcells hparams (by rw [hchip, hframe])⟩
  rw [← hparams, responds_eq_deadlinesPast hactive' hon' (hparams ▸ hpresent), hpast']

/-- Settles O33: the writeByte leaves the Active phase and a responding chip, so the readByte returns what is then stored. -/
theorem serialRoundTrip : Obligations.SerialRoundTrip := by
  intro a b x s hv hd hs hr htimely
  obtain ⟨t, hwrite, hparams, hd', hr', hsame, hother⟩ := sWrite_stored a x hv hd hs hr htimely
  obtain ⟨u, hread, hrdata⟩ := sRead_stored b (hparams ▸ hv) hd' (hparams.symm ▸ hr')
  exact ⟨t, u, hwrite, hread, hrdata.trans (memRead_of_stored hparams hsame hother b)⟩

end Sys2Proof.Machine
end

section
/-! The parallel variant as a memory (spec/20_memory.md R51, R64 to R66, R72): what readByte returns and writeByte stores in the
Active phase with a ready chip. -/

namespace Sys2Proof.Machine

/-- Time does not run back over any of the steps of an operation (R114). -/
theorem now_le_runSteps {v : Variant} {op : Op} {l : List (State → State)} (hl : l ⊆ stepsOf v op) (k : Nat) (s : State) :
    s.now ≤ (runSteps op l k s).now := by
  have hclosed := traceExtends_closed s
  obtain ⟨-, -, -, -, hnow⟩ := runSteps_keeps (P := TraceExtends s) op l (fun u q hu => hclosed.atSeq q u hu)
    (fun f hf => closed_stepsOf hclosed v op f (hl hf)) k (traceExtends_refl s)
  exact hnow

/-- One more step of an operation (R24). -/
theorem runSteps_take_succ {op : Op} {l : List (State → State)} {k : Nat} {f : State → State} (h : l[k]? = some f) (s : State) :
    runSteps op (l.take (k + 1)) 1 s = atSeq (.running op (k + 2)) (f (runSteps op (l.take k) 1 s)) := by
  obtain ⟨hk, -⟩ := List.getElem?_eq_some_iff.1 h
  rw [List.take_add_one, h, Option.toList_some, runSteps_append, List.length_take_of_le hk.le, Nat.add_comm 1 k, runSteps,
    runSteps]

/-! ## The data bus as a byte (30_encoding.md R90, R91) -/

theorem assembleByte_dataBits (x : Byte) : assembleByte (dataBits x) = x := by
  apply BitVec.eq_of_getLsbD_eq
  intro i hi
  rw [assembleByte, BitVec.getLsbD_ofNat, bitsValue_testBit, decide_eq_true hi, Bool.true_and]
  have hbit : (dataBits x)[i]? = some (x.getLsbD i) := by simp [dataBits, hi]
  rw [List.getD_eq_getElem?_getD, hbit, Option.getD_some]

/-- After `dataSet` the latches of the data lines hold `WDATA` (R174). -/
theorem dataSet_dataByte (s : State) : (dataSet s).parallel.dataByte = s.wdata := by
  rw [dataSet_parallel]
  exact assembleByte_dataBits s.wdata

/-! ## The Active phase of the parallel variant (10_state.md R39) -/

/-- The line registers of `Active_P` (R39). -/
structure ActiveLines (b : ParallelLines) : Prop where
  pwren : b.pwren = ⟨.output, false⟩
  we : b.we = ⟨.output, true⟩
  oe : b.oe = ⟨.output, true⟩
  shen : b.shen = ⟨.output, true⟩
  shclk : b.shclk.dir = .output
  shdat : b.shdat.dir = .output
  data : b.dataAll .input = true

theorem active_iff {b : ParallelLines} : b.active = true ↔ ActiveLines b := by
  simp only [ParallelLines.active, Bool.and_eq_true, decide_eq_true_eq]
  exact ⟨fun ⟨⟨⟨⟨⟨⟨hp, hw⟩, ho⟩, he⟩, hc⟩, hs⟩, hd⟩ => ⟨hp, hw, ho, he, hc, hs, hd⟩,
    fun ⟨hp, hw, ho, he, hc, hs, hd⟩ => ⟨⟨⟨⟨⟨⟨hp, hw⟩, ho⟩, he⟩, hc⟩, hs⟩, hd⟩⟩

theorem activeP_iff {s : State} : s.activeP = true ↔
    ActiveLines s.parallel ∧ s.pwrenLowAt + s.params.constants.tParPowerMs * 1000 ≤ s.now := by
  rw [State.activeP, Bool.and_eq_true, active_iff, decide_eq_true_eq]

theorem resultsDefined_parallel {s : State} (hv : s.params.variant = .parallel) :
    s.resultsDefined = true ↔ s.activeP = true := by
  simp [State.resultsDefined, hv]

theorem parallelReady_iff {s : State} : s.parallelReady = true ↔
    s.params.present = true ∧ s.parallel.pwren = ⟨.output, false⟩ ∧ s.deadlinesPast = true := by
  simp only [State.parallelReady, ParallelLines.powered, Bool.and_eq_true, decide_eq_true_eq, and_assoc]

/-- A ready chip that goes on being powered stays ready while nothing but time changes at it (R64). -/
theorem parallelReady_later {s t : State} (h : s.parallelReady = true) (hparams : t.params = s.params)
    (hpwren : t.parallel.pwren = s.parallel.pwren) (hrdy : t.chip.rdyAt = s.chip.rdyAt)
    (hbusy : t.chip.wbusyUntil = s.chip.wbusyUntil) (hnow : s.now ≤ t.now) : t.parallelReady = true := by
  obtain ⟨hpresent, hpower, hpast⟩ := parallelReady_iff.1 h
  exact parallelReady_iff.2 ⟨hparams ▸ hpresent, hpwren.trans hpower,
    deadlinesPast_later hpast hrdy (hbusy ▸ (deadlinesPast_wbusy hpast).trans hnow) hnow⟩

/-! ## readByte -/

/-- A result that is defined is the value given (R23, U2). -/
theorem setRdata_rdata {s : State} (h : s.inPhase = true) (v : Byte) : (setRdata v s).rdata = v := by simp [setRdata, h]

/-- `s` under `P.READ` after its first `k` steps (R173). -/
def readAfter (k : Nat) (a : Addr) (s : State) : State :=
  runSteps .read (pReadSteps.take k) 1 (accept .read (setAddr a s))

theorem readAfter_succ {k : Nat} {f : State → State} (h : pReadSteps[k]? = some f) (a : Addr) (s : State) :
    readAfter (k + 1) a s = atSeq (.running .read (k + 2)) (f (readAfter k a s)) := runSteps_take_succ h _

/-- The seven steps are the operation (R173). -/
theorem operate_pRead (a : Addr) (s : State) : operate .read pReadSteps (setAddr a s) = finish .read (readAfter 7 a s) := rfl

/-- With the address latched and `OE` low (R173 steps 1 to 3), a ready chip drives the data lines with the byte at the address
(R65). -/
theorem readAfter_drives {s : State} (a : Addr) (hlines : ActiveLines s.parallel) (hr : s.parallelReady = true) :
    (readAfter 3 a s).parallelDrives = true ∧ (readAfter 3 a s).memRead (readAfter 3 a s).sr = s.memRead a := by
  have hbank : (readAfter 3 a s).parallel = { s.parallel with
      shclk := ⟨.output, false⟩, shdat := ⟨.output, a.getLsbD 0⟩, oe := ⟨.output, false⟩ } := by
    simp [readAfter, runSteps, pReadSteps, latchAddr, ParallelLines.set, ParallelLines.get, hlines.shclk, hlines.shdat, hlines.oe]
  have hchip : (readAfter 3 a s).chip = s.chip := by simp [readAfter, runSteps, pReadSteps, latchAddr]
  have hparams : (readAfter 3 a s).params = s.params := by simp [readAfter, runSteps, pReadSteps, latchAddr]
  have hnow : s.now ≤ (readAfter 3 a s).now :=
    now_le_runSteps (v := .parallel) (List.take_subset _ _) 1 (accept .read (setAddr a s))
  have hsr : (readAfter 3 a s).sr = a := by
    simp [readAfter, runSteps, pReadSteps, latchAddr, latch_sr, hlines.shclk, hlines.shdat]
  have hready := parallelReady_later hr hparams (by rw [hbank]) (by rw [hchip]) (by rw [hchip]) hnow
  have hoe : (readAfter 3 a s).parallel.oe.drive = .low := by rw [hbank]; rfl
  have hwe : (readAfter 3 a s).parallel.we.drive = .high := by rw [hbank, hlines.we]; rfl
  have hshen : (readAfter 3 a s).parallel.shen.drive = .high := by rw [hbank, hlines.shen]; rfl
  have hdata : (readAfter 3 a s).parallel.dataAll .input = true := by rw [hbank]; exact hlines.data
  exact ⟨by simp [State.parallelDrives, State.apinDriven, hready, hoe, hwe, hshen, hdata],
    by simp only [State.memRead, hparams, hchip, hsr]⟩

/-- From the Active phase with a ready chip, `P.READ` returns the byte stored at the address (R65, R173). -/
theorem pRead_stored {s : State} (a : Addr) (hv : s.params.variant = .parallel) (hd : s.resultsDefined = true)
    (hr : s.parallelReady = true) : ∃ t, exec (.pRead a) s = .next t ∧ t.rdata = s.memRead a := by
  have hactive := (resultsDefined_parallel hv).1 hd
  obtain ⟨hlines, -⟩ := activeP_iff.1 hactive
  obtain ⟨hdrives, hbyte⟩ := readAfter_drives a hlines hr
  obtain ⟨g, -, hg, -, -, hsample⟩ := dataGet_sampled (readAfter 3 a s)
  have hphase : (readAfter 6 a s).inPhase = true := by simp [readAfter, runSteps, pReadSteps, latchAddr, hd]
  have hsampled : (readAfter 6 a s).sampled = (dataGet (readAfter 3 a s)).sampled := by simp [readAfter, runSteps, pReadSteps]
  refine ⟨_, exec_pRead hv (activeP_calm hactive).1, ?_⟩
  calc (operate .read pReadSteps (setAddr a s)).rdata
      = (takeSample (readAfter 6 a s)).rdata := by
        rw [operate_pRead, finish_rdata, readAfter_succ (k := 6) (f := takeSample) rfl, atSeq_rdata]
    _ = assembleByte (readAfter 6 a s).sampled := setRdata_rdata hphase _
    _ = assembleByte (dataBits (s.memRead a)) := by rw [hsampled, hg, hsample hdrives, hbyte]
    _ = s.memRead a := assembleByte_dataBits _

/-! ## writeByte -/

/-- `s` under `P.WRITE` after its first `k` steps (R174). -/
def writeAfter (k : Nat) (a : Addr) (x : Byte) (s : State) : State :=
  runSteps .write (pWriteSteps.take k) 1 (accept .write (setWdata x (setAddr a s)))

theorem writeAfter_succ {k : Nat} {f : State → State} (h : pWriteSteps[k]? = some f) (a : Addr) (x : Byte) (s : State) :
    writeAfter (k + 1) a x s = atSeq (.running .write (k + 2)) (f (writeAfter k a x s)) := runSteps_take_succ h _

/-- The nine steps are the operation (R174). -/
theorem operate_pWrite (a : Addr) (x : Byte) (s : State) :
    operate .write pWriteSteps (setWdata x (setAddr a s)) = finish .write (writeAfter 9 a x s) := rfl

/-- No step writes the parameters or the phase noted at acceptance, nor turns time back (R35, U1, R114). -/
theorem writeAfter_keeps (k : Nat) (a : Addr) (x : Byte) (s : State) : (writeAfter k a x s).params = s.params
    ∧ (writeAfter k a x s).inPhase = s.resultsDefined ∧ s.now ≤ (writeAfter k a x s).now := by
  have hsub : pWriteSteps.take k ⊆ stepsOf .parallel .write := List.take_subset _ _
  obtain ⟨hparams, -, -, -, hphase⟩ :=
    accepted_eq_iff.1 (accepted_runSteps hsub 1 (accept .write (setWdata x (setAddr a s))))
  exact ⟨hparams, hphase, now_le_runSteps hsub 1 (accept .write (setWdata x (setAddr a s)))⟩

/-- The address and the byte stand on the chip's pins and a write pulse may begin (R174 steps 1 to 4). -/
structure BytePresented (a : Addr) (x : Byte) (s w : State) : Prop where
  params : w.params = s.params
  chip : w.chip = s.chip
  now : s.now ≤ w.now
  sr : w.sr = a
  byte : w.parallel.dataByte = x
  data : w.parallel.dataAll .output = true
  pwren : w.parallel.pwren = s.parallel.pwren
  shen : w.parallel.shen = s.parallel.shen
  we : w.parallel.we = s.parallel.we
  oe : w.parallel.oe = s.parallel.oe

theorem writeAfter_presented {s : State} (a : Addr) (x : Byte) (hlines : ActiveLines s.parallel) :
    BytePresented a x s (writeAfter 4 a x s) where
  params := (writeAfter_keeps 4 a x s).1
  chip := by simp [writeAfter, runSteps, pWriteSteps, latchAddr]
  now := (writeAfter_keeps 4 a x s).2.2
  sr := by simp [writeAfter, runSteps, pWriteSteps, latchAddr, latch_sr, hlines.shclk, hlines.shdat]
  byte := by
    have hset : (writeAfter 4 a x s).parallel = (dataSet (writeAfter 2 a x s)).parallel := by
      simp [writeAfter, runSteps, pWriteSteps]
    rw [hset, dataSet_dataByte]
    simp [writeAfter, runSteps, pWriteSteps, latchAddr]
  data := by simp [writeAfter, runSteps, pWriteSteps, latchAddr, dataAll_iff]
  pwren := by simp [writeAfter, runSteps, pWriteSteps, latchAddr]
  shen := by simp [writeAfter, runSteps, pWriteSteps, latchAddr]
  we := by simp [writeAfter, runSteps, pWriteSteps, latchAddr]
  oe := by simp [writeAfter, runSteps, pWriteSteps, latchAddr]

theorem setWe_dataAll (b : ParallelLines) (r : LineReg) (d : Dir) : ({ b with we := r }).dataAll d = b.dataAll d := rfl

theorem setWe_dataByte (b : ParallelLines) (r : LineReg) : ({ b with we := r }).dataByte = b.dataByte := rfl

/-- The write pulse begins (R174 steps 5 and 6): the chip has seen `WE` fall, and only `WE` has changed on its pins. -/
theorem writeAfter_fall {s : State} (a : Addr) (x : Byte) (hlines : ActiveLines s.parallel) (hr : s.parallelReady = true) :
    (writeAfter 6 a x s).chip = { s.chip with pulse := .begun }
      ∧ (writeAfter 6 a x s).parallel = { (writeAfter 4 a x s).parallel with we := ⟨.output, false⟩ }
      ∧ (writeAfter 6 a x s).sr = a ∧ (writeAfter 6 a x s).params = s.params ∧ s.now ≤ (writeAfter 6 a x s).now := by
  have hp := writeAfter_presented a x hlines
  obtain ⟨hpresent, hpower, -⟩ := parallelReady_iff.1 hr
  have hwe : (writeAfter 4 a x s).parallel.we = ⟨.output, true⟩ := hp.we.trans hlines.we
  have hon : (writeAfter 4 a x s).parallel.powered = true := by rw [ParallelLines.powered, hp.pwren, hpower]; rfl
  have hchip := pinSet_we_fall (by rw [hp.params]; exact hpresent) hon hwe (by rw [hp.oe, hlines.oe]; rfl)
  have hnow := hp.now
  rw [writeAfter_succ (k := 5) (f := waitUs Constants.tParWeUs) rfl,
    writeAfter_succ (k := 4) (f := pinSet (.par .we) false) rfl]
  refine ⟨?_, ?_, ?_, ?_, ?_⟩
  · simp [hchip, hp.chip]
  · simp [ParallelLines.set, ParallelLines.get, hwe]
  · simp [hp.sr]
  · simp [hp.params]
  · simp; omega

/-- The write pulse ends (R174 step 7): the byte presented goes to the cell at the address presented, and a write cycle begins
(R66). -/
theorem writeAfter_rise {s : State} (a : Addr) (x : Byte) (hlines : ActiveLines s.parallel) (hr : s.parallelReady = true) :
    (writeAfter 7 a x s).chip.mem = Memory.write s.chip.mem (cell s.params a) x
      ∧ ReadyWithin s.params.tWcPar (writeAfter 7 a x s) := by
  have hp := writeAfter_presented a x hlines
  obtain ⟨hchip, hbank, hsr, hparams, hnow⟩ := writeAfter_fall a x hlines hr
  have hready := parallelReady_later hr hparams (by rw [hbank, hp.pwren]) (by rw [hchip]) (by rw [hchip]) hnow
  have hshen : (writeAfter 6 a x s).apinDriven = true := by
    rw [State.apinDriven, hbank, hp.shen, hlines.shen]; rfl
  have hdata : (writeAfter 6 a x s).parallel.dataAll .output = true := by rw [hbank, setWe_dataAll, hp.data]
  have hbyte : (writeAfter 6 a x s).parallel.dataByte = x := by rw [hbank, setWe_dataByte, hp.byte]
  have hrise := pinSet_we_rise hready hshen hdata (by rw [hbank]) (by rw [hbank, hp.oe, hlines.oe]; rfl) (by rw [hchip])
  rw [writeAfter_succ (k := 6) (f := pinSet (.par .we) true) rfl]
  rw [hbyte, hsr, hparams, hchip] at hrise
  refine ⟨by rw [atSeq_chip, hrise], ?_⟩
  obtain ⟨-, -, hpast⟩ := parallelReady_iff.1 hr
  obtain ⟨r, hrdy, hrn, -⟩ := readyWithin_zero_iff.2 hpast
  refine ⟨r, by rw [atSeq_chip, hrise]; exact hrdy, ?_, ?_⟩
  · simp; omega
  · rw [atSeq_chip, hrise, atSeq_now, pinSet_now]
    simp

/-- Where the phase makes the results defined, the end of an operation is the end of its sequence (R24, R137). -/
theorem finish_inPhase_eq {op : Op} {s : State} (h : s.inPhase = true) : finish op s = atSeq .idle s := by
  cases op <;> simp [finish, h]

/-- A writeByte leaves the lines of the Active phase as they were (R174). -/
theorem writeAfter_lines {s : State} (a : Addr) (x : Byte) (hlines : ActiveLines s.parallel) :
    ActiveLines (writeAfter 9 a x s).parallel := by
  constructor <;>
    simp [writeAfter, runSteps, pWriteSteps, latchAddr, ParallelLines.set, ParallelLines.get, dataAll_iff, hlines.pwren, hlines.we,
      hlines.oe, hlines.shen, hlines.shclk, hlines.shdat]

theorem dataMode_now_le (d : Dir) (s : State) : s.now ≤ (dataMode d s).now := by
  simp only [dataMode, dataLines, List.foldl_cons, List.foldl_nil, pinMode_now]
  omega

/-- The wait after the write pulse, and the data lines let go, leave the chip alone (R174 steps 8 and 9). -/
theorem writeAfter_recovery (a : Addr) (x : Byte) (s : State) : (writeAfter 9 a x s).chip = (writeAfter 7 a x s).chip
    ∧ (writeAfter 7 a x s).now + s.params.constants.tParWriteMs * 1000 ≤ (writeAfter 9 a x s).now := by
  obtain ⟨hparams, -, -⟩ := writeAfter_keeps 7 a x s
  rw [writeAfter_succ (k := 8) (f := dataMode .input) rfl, writeAfter_succ (k := 7) (f := waitMs Constants.tParWriteMs) rfl,
    waitMs_eq, hparams, atSeq_chip, dataMode_chip, atSeq_now]
  exact ⟨by simp, le_trans (by simp) (dataMode_now_le _ _)⟩

/-- `P.WRITE` in the Active phase (R174): it runs its nine steps, and ends in the Active phase. -/
theorem pWrite_active {s : State} (a : Addr) (x : Byte) (hv : s.params.variant = .parallel) (hd : s.resultsDefined = true) :
    exec (.pWrite a x) s = .next (atSeq .idle (writeAfter 9 a x s)) ∧ (writeAfter 9 a x s).activeP = true := by
  have hactive := (resultsDefined_parallel hv).1 hd
  obtain ⟨hlines, hpower⟩ := activeP_iff.1 hactive
  obtain ⟨hparams, hphase, hnow⟩ := writeAfter_keeps 9 a x s
  have hlow : (writeAfter 9 a x s).pwrenLowAt = s.pwrenLowAt := by simp [writeAfter, runSteps, pWriteSteps, latchAddr]
  refine ⟨?_, activeP_iff.2 ⟨writeAfter_lines a x hlines, ?_⟩⟩
  · rw [exec_pWrite hv (activeP_calm hactive).2, operate_pWrite, finish_inPhase_eq (hphase.trans hd)]
  · rw [hlow, hparams]
    exact hpower.trans hnow

/-- From the Active phase with a ready chip within the time bounds of R71, `P.WRITE` stores the byte in the addressed cell and
nowhere else (R66, R174), and ends in the Active phase with a chip that is ready again. -/
theorem pWrite_stored {s : State} (a : Addr) (x : Byte) (hv : s.params.variant = .parallel) (hd : s.resultsDefined = true)
    (hs : s.sound = true) (hr : s.parallelReady = true) (htimely : s.params.timely = true) :
    ∃ t, exec (.pWrite a x) s = .next t ∧ t.params = s.params ∧ t.resultsDefined = true
      ∧ t.parallelReady = true ∧ t.memRead a = x ∧ SameMemExcept a s t := by
  obtain ⟨hlines, -⟩ := activeP_iff.1 ((resultsDefined_parallel hv).1 hd)
  obtain ⟨hcells, -⟩ := sound_iff.1 hs
  obtain ⟨-, -, htwc, -, -, -⟩ := timely_iff.1 htimely
  obtain ⟨hpresent, -, -⟩ := parallelReady_iff.1 hr
  obtain ⟨hmem, hready⟩ := writeAfter_rise a x hlines hr
  obtain ⟨hchip, hnow⟩ := writeAfter_recovery a x s
  obtain ⟨hparams, -, -⟩ := writeAfter_keeps 9 a x s
  obtain ⟨hexec, hactive⟩ := pWrite_active a x hv hd
  obtain ⟨hlines', -⟩ := activeP_iff.1 hactive
  generalize writeAfter 9 a x s = t at *
  have hpast : t.deadlinesPast = true :=
    readyWithin_zero_iff.1 (hready.elapse hchip ((Nat.add_le_add_left htwc _).trans hnow))
  refine ⟨_, hexec, hparams, (resultsDefined_parallel (hparams ▸ hv)).2 hactive,
    parallelReady_iff.2 ⟨hparams ▸ hpresent, hlines'.pwren, hpast⟩, stored_of_mem hcells hparams ?_⟩
  rw [atSeq_chip, hchip, hmem]

/-- Settles O46: the writeByte leaves the Active phase and a ready chip, so the readByte returns what is then stored. -/
theorem parallelRoundTrip : Obligations.ParallelRoundTrip := by
  intro a b x s hv hd hs hr htimely
  obtain ⟨t, hwrite, hparams, hd', hr', hsame, hother⟩ := pWrite_stored a x hv hd hs hr htimely
  obtain ⟨u, hread, hrdata⟩ := pRead_stored b (hparams ▸ hv) hd' hr'
  exact ⟨t, u, hwrite, hread, hrdata.trans (memRead_of_stored hparams hsame hother b)⟩

end Sys2Proof.Machine
end

section
/-! The life of a block as a memory (spec/41_eepromio_contract.md R141 P7, 70_reset_and_hazards.md R213): from any state with no
write cycle in progress, setup and init make the chip of either variant ready in the Active phase. -/

namespace Sys2Proof.Machine

/-! ## No write cycle in progress -/

/-- No write cycle of the chip is in progress (R64). -/
def WriteOver (s : State) : Prop := s.chip.wbusyUntil ≤ s.now

theorem WriteOver.of_le {s t : State} (h : WriteOver s) (hbusy : t.chip.wbusyUntil ≤ s.chip.wbusyUntil)
    (hnow : s.now ≤ t.now) : WriteOver t := hbusy.trans (h.trans hnow)

/-- Power begins no write cycle (R203). -/
theorem powerChange_wbusy_le (was on : Bool) (n : Nat) (s : State) :
    (s.powerChange was on n).chip.wbusyUntil ≤ s.chip.wbusyUntil := by
  cases was <;> cases on
  case true.false => exact Nat.zero_le _
  case false.true => exact Nat.le_refl _
  case false.false => exact Nat.le_refl _
  case true.true => exact Nat.le_refl _

/-- Of the parallel lines only `WE` can begin one (R66). -/
theorem putParallel_wbusy_le {l : PLine} (hl : l ≠ .we) (r : LineReg) (s : State) :
    (s.putParallel l r).chip.wbusyUntil ≤ s.chip.wbusyUntil := by
  by_cases hpwren : l = .pwren
  · subst hpwren
    exact powerChange_wbusy_le _ _ _ _
  · rw [putParallel_chip hl hpwren]

theorem putSerial_wbusy_le (l : SLine) (r : LineReg) (s : State) :
    (s.putSerial l r).chip.wbusyUntil ≤ s.chip.wbusyUntil := powerChange_wbusy_le _ _ _ _

theorem WriteOver.pinModeSer {s : State} (h : WriteOver s) (l : SLine) (d : Dir) : WriteOver (pinMode (.ser l) d s) :=
  h.of_le (by rw [pinModeSer_putSerial]; exact putSerial_wbusy_le _ _ s) (pinMode_records (.ser l) d s).now

theorem WriteOver.pinSetSer {s : State} (h : WriteOver s) (l : SLine) (v : Bool) : WriteOver (pinSet (.ser l) v s) :=
  h.of_le (by rw [pinSetSer_putSerial]; exact putSerial_wbusy_le _ _ s) (pinSet_records (.ser l) v s).now

theorem WriteOver.pinModePar {s : State} (h : WriteOver s) {l : PLine} (hl : l ≠ .we) (d : Dir) :
    WriteOver (pinMode (.par l) d s) :=
  h.of_le (by rw [pinModePar_putParallel]; exact putParallel_wbusy_le hl _ s) (pinMode_records (.par l) d s).now

theorem WriteOver.pinSetPar {s : State} (h : WriteOver s) {l : PLine} (hl : l ≠ .we) (v : Bool) :
    WriteOver (pinSet (.par l) v s) :=
  h.of_le (by rw [pinSetPar_putParallel]; exact putParallel_wbusy_le hl _ s) (pinSet_records (.par l) v s).now

theorem WriteOver.atSeq {s : State} (h : WriteOver s) (q : Seq) : WriteOver (atSeq q s) := h

theorem ReadyWithin.mono {n m : Nat} {s : State} (h : ReadyWithin n s) (hnm : n ≤ m) : ReadyWithin m s :=
  h.elapse rfl (Nat.add_le_add_left hnm _)

/-- A chip just powered up, with no write cycle in progress, is ready after its power-up time (R64, R67). -/
theorem readyWithin_of_poweredUp {s t : State} {n p : Nat} (hw : WriteOver s) (hchip : t.chip = s.chip.poweredUp (s.now + n) p)
    (hnow : s.now ≤ t.now) : ReadyWithin n t :=
  ⟨s.now + n, congrArg Chip.rdyAt hchip, Nat.add_le_add_right hnow n,
    (congrArg Chip.wbusyUntil hchip).le.trans (hw.trans (hnow.trans (Nat.le_add_right _ _)))⟩

/-! ## The serial variant -/

/-- `S.DISABLE` begins no write cycle (R154). -/
theorem WriteOver.callSDisable {s : State} (h : WriteOver s) : WriteOver (callSDisable s) := by
  have hstop : WriteOver (stopTransport s) := by
    unfold stopTransport
    split
    · exact h.of_le (t := busEnd s) (Nat.le_refl _) (busEnd_records s).now
    · exact h
  simp only [Machine.callSDisable, sDisableSteps, List.foldl_cons, List.foldl_nil]
  exact foldl_closed (P := WriteOver) (fun _ l hu => hu.pinModeSer l .input) _ ((hstop.pinSetSer .wp false).pinSetSer .pwr false)

/-- `S.DISABLE` leaves the chip's power line floating, its latch low (R154). -/
theorem callSDisable_pwr (s : State) : (callSDisable s).serial.pwr = ⟨.input, false⟩ := by
  simp only [callSDisable, sDisableSteps, floatSerial, List.foldl_cons, List.foldl_nil, pinModeSer_serial, pinSetSer_serial,
    SerialLines.set, SerialLines.get]

/-- `S.SETUP` leaves the chip's power line floating, and begins no write cycle (R150). -/
theorem sSetup_off {s : State} (hv : s.params.variant = .serial) (hw : WriteOver s) : ∃ t, exec .sSetup s = .next t
    ∧ t.params = s.params ∧ t.serial.pwr = ⟨.input, false⟩ ∧ WriteOver t := by
  obtain ⟨hparams, -⟩ := accepted_eq_iff.1 (accepted_runSteps (List.Subset.refl (stepsOf .serial .setup)) 1 (accept .setup s))
  refine ⟨_, exec_sSetup hv, (finish_params _ _).trans hparams, ?_, ?_⟩
  · rw [operate, finish_serial, sSetupSteps, runSteps, runSteps, runSteps, atSeq_serial, callSDisable_pwr]
  · refine (runSteps_keeps (P := WriteOver) .setup sSetupSteps (fun _ q h => h.atSeq q) ?_ 1 (s := accept .setup s) hw).atSeq .idle
    simp only [sSetupSteps, List.forall_mem_cons]
    exact ⟨fun _ h => h, fun _ h => h.callSDisable, nofun⟩

/-- `Drive(PWR, 1)` at an unpowered serial chip makes it ready after its power-up time (R151 step 1, R67). -/
theorem drivePwr_ready {s : State} (hoff : s.serial.pwr = ⟨.input, false⟩) (hw : WriteOver s) :
    ReadyWithin s.params.tRdySer (drive (.ser .pwr) true s) := by
  have hlow : (pinMode (.ser .pwr) .output s).serial.pwr = ⟨.output, false⟩ := by simp [SerialLines.set, SerialLines.get, hoff]
  obtain ⟨-, hup⟩ := pinSet_pwr_apply hlow
  rw [pinModeSer_params] at hup
  exact readyWithin_of_poweredUp (hw.pinModeSer .pwr .output) hup (pinSet_records _ _ _).now

/-- After its first step `S.INIT` changes nothing at the chip (R151). -/
theorem sInit_chip (s : State) : (operate .init sInitSteps s).chip = (drive (.ser .pwr) true (accept .init s)).chip
    ∧ (drive (.ser .pwr) true (accept .init s)).now ≤ (operate .init sInitSteps s).now := by
  have hend : operate .init sInitSteps s = finish .init (runSteps .init (sInitSteps.drop 1) 2
      (atSeq (.running .init 2) (drive (.ser .pwr) true (accept .init s)))) := rfl
  refine ⟨by simp [operate, runSteps, sInitSteps, drive, finish], ?_⟩
  rw [hend, finish_now]
  exact now_le_runSteps (v := .serial) (List.drop_subset _ _) 2
    (atSeq (.running .init 2) (drive (.ser .pwr) true (accept .init s)))

/-- `S.INIT` reaches `Active_S` with a started transport, from any state (R151). -/
theorem sInit_active (s : State) :
    (operate .init sInitSteps s).activeS = true ∧ (operate .init sInitSteps s).transport.on = true := by
  have hbank : (operate .init sInitSteps s).serial = ⟨⟨.output, false⟩, ⟨.output, false⟩, ⟨.output, false⟩, ⟨.output, true⟩,
      ⟨.output, true⟩, s.serial.bclk, s.serial.bdat⟩ := by
    simp [operate, runSteps, sInitSteps, drive, SerialLines.set, SerialLines.get]
  have hstarted : (operate .init sInitSteps s).started = true := by simp [operate, runSteps, sInitSteps]
  exact ⟨by simp [State.activeS, hbank, hstarted], by simp [operate, runSteps, sInitSteps]⟩

/-- `S.INIT` after a setup ends in the Active phase with a chip that responds, where one is there whose power-up takes no time
(R151, R71). -/
theorem sInit_ready {s : State} (hv : s.params.variant = .serial) (hpresent : s.params.present = true)
    (htimely : s.params.timely = true) (hoff : s.serial.pwr = ⟨.input, false⟩) (hw : WriteOver s) :
    ∃ t, exec .sInit s = .next t ∧ t.params = s.params ∧ t.resultsDefined = true
      ∧ t.responds (devAddr s.params) = true := by
  obtain ⟨-, -, -, -, -, hrdy⟩ := timely_iff.1 htimely
  have hready : ReadyWithin s.params.tRdySer (drive (.ser .pwr) true (accept .init s)) :=
    drivePwr_ready (s := accept .init s) hoff hw
  have hparams : (operate .init sInitSteps s).params = s.params := by simp [operate, runSteps, sInitSteps, drive]
  obtain ⟨hchip, hnow⟩ := sInit_chip s
  obtain ⟨hactive, hon⟩ := sInit_active s
  refine ⟨_, exec_sInit hv, ?_⟩
  generalize operate .init sInitSteps s = t at *
  have hpast : t.deadlinesPast = true := readyWithin_zero_iff.1 (hready.elapse hchip (by rw [hrdy]; exact hnow))
  refine ⟨hparams, (resultsDefined_serial (hparams ▸ hv)).2 ⟨hactive, hon⟩, ?_⟩
  rw [← hparams, responds_eq_deadlinesPast hactive hon (hparams ▸ hpresent), hpast]

/-! ## The parallel variant -/

/-- `P.DISABLE` begins no write cycle: it lets `WE` float when the chip's power is already cut (R175, R66). -/
theorem WriteOver.callPDisable {s : State} (h : WriteOver s) : WriteOver (callPDisable s) := by
  simp only [Machine.callPDisable, pDisableSteps, List.foldl_cons, List.foldl_nil]
  have hcut := (h.pinSetPar (l := .pwren) nofun true).pinSetPar (l := .shen) nofun false
  generalize hu : pinSet (.par .shen) false (pinSet (.par .pwren) true s) = u at hcut
  have hoff : u.parallel.powered = false := by
    simp [← hu, ParallelLines.powered, ParallelLines.set, ParallelLines.get]
  have hwe : (pinMode (.par .we) .input u).chip = u.chip := by
    rw [pinMode_we_chip, clockWrite_unpowered]
    exact hoff
  have hfloat : WriteOver (pinMode (.par .oe) .input (pinMode (.par .we) .input u)) :=
    WriteOver.pinModePar (l := .oe) (hcut.of_le (by rw [hwe]) (pinMode_records (.par .we) .input u).now) nofun _
  exact hfloat.of_le (by rw [dataMode_chip]) (dataMode_now_le _ _)

/-- `P.SETUP` reaches `Disabled_P`, and begins no write cycle (R171). -/
theorem pSetup_off {s : State} (hv : s.params.variant = .parallel) (hw : WriteOver s) : ∃ t, exec .pSetup s = .next t
    ∧ t.params = s.params ∧ t.disabledP = true ∧ WriteOver t := by
  obtain ⟨hparams, -⟩ := accepted_eq_iff.1 (accepted_runSteps (List.Subset.refl (stepsOf .parallel .setup)) 1 (accept .setup s))
  refine ⟨_, exec_pSetup hv, (finish_params _ _).trans hparams, ?_, ?_⟩
  · simp [operate, runSteps, pSetupSteps, Machine.callPDisable, pDisableSteps, State.disabledP, ParallelLines.set,
      ParallelLines.get, dataAll_iff]
  · refine (runSteps_keeps (P := WriteOver) .setup pSetupSteps (fun _ q h => h.atSeq q) ?_ 1 (s := accept .setup s) hw).atSeq .idle
    simp only [pSetupSteps, List.forall_mem_cons]
    exact ⟨fun _ h => h.pinModePar (l := .pwren) nofun _, fun _ h => h.pinModePar (l := .shen) nofun _,
      fun _ h => h.pinModePar (l := .shclk) nofun _, fun _ h => h.pinModePar (l := .shdat) nofun _, fun _ h => h.callPDisable,
      nofun⟩

/-- A change of `WE` begins at most the write cycle that its pulse takes (R66). -/
theorem clockWrite_wbusy_le {s : State} {n : Nat} (hbusy : s.chip.wbusyUntil ≤ n) (hcycle : s.now + s.params.tWcPar ≤ n)
    (a b : Level) : (s.clockWrite a b).chip.wbusyUntil ≤ n := by
  have hend : ∀ certain, (s.endPulse certain).chip.wbusyUntil ≤ n := by
    intro certain
    unfold State.endPulse
    split
    · exact hbusy
    · exact hcycle
  unfold State.clockWrite
  repeat' split
  all_goals first | exact hbusy | exact hend _

/-- So a wait that is as long as a write cycle is long enough after it (R71, U16). -/
theorem ReadyWithin.clockWrite {n : Nat} {s : State} (h : ReadyWithin n s) (hcycle : s.params.tWcPar ≤ n) (a b : Level) :
    ReadyWithin n (s.clockWrite a b) := by
  obtain ⟨r, hrdy, hrn, hbusy⟩ := h
  exact ⟨r, by rw [clockWrite_rdyAt, hrdy], by rw [clockWrite_now]; exact hrn,
    by rw [clockWrite_now]; exact clockWrite_wbusy_le hbusy (Nat.add_le_add_left hcycle _) a b⟩

theorem ReadyWithin.atSeq {n : Nat} {s : State} (h : ReadyWithin n s) (q : Seq) : ReadyWithin n (atSeq q s) := h

/-- The first `Drive(WE, 1)` of an init may end a stray write pulse; the wait that is left covers its write cycle (R223, U16). -/
theorem ReadyWithin.driveWe {n : Nat} {s : State} (h : ReadyWithin n s) (hcycle : s.params.tWcPar ≤ n) (v : Bool) :
    ReadyWithin n (drive (.par .we) v s) := by
  have hmode : ReadyWithin n (pinMode (.par .we) .output s) := by
    have hput := ReadyWithin.clockWrite (s := { s with parallel := s.parallel.set .we ⟨.output, s.parallel.we.lat⟩ }) h hcycle
      s.parallel.we.drive (LineReg.drive ⟨.output, s.parallel.we.lat⟩)
    exact hput.elapse (pinMode_we_chip .output s) (by simp)
  generalize hu : pinMode (.par .we) .output s = u at hmode
  have hcycle' : u.params.tWcPar ≤ n := by rw [← hu, pinModePar_params]; exact hcycle
  have hput := ReadyWithin.clockWrite (s := { u with parallel := u.parallel.set .we ⟨u.parallel.we.dir, v⟩ }) hmode hcycle'
    u.parallel.we.drive (LineReg.drive ⟨u.parallel.we.dir, v⟩)
  rw [drive, hu]
  exact hput.elapse (pinSet_we_chip v u) (by simp)

/-- `s` under `P.INIT` with only the wait left (R172 steps 1 to 4). -/
def initBeforeWait (s : State) : State := runSteps .init (pInitSteps.take 4) 1 (accept .init s)

/-- Then the chip has been powered up, and is ready once its power-up time and a stray write cycle are over (R64, U16). -/
theorem initBeforeWait_ready {n : Nat} {s : State} (hoff : s.parallel.pwren = ⟨.output, true⟩) (hw : WriteOver s)
    (hrdy : s.params.tRdyPar ≤ n) (hcycle : s.params.tWcPar ≤ n) : ReadyWithin n (initBeforeWait s) := by
  obtain ⟨-, hup⟩ := pinSet_pwren_apply (s := accept .init s) hoff
  have hpower : ReadyWithin n (pinSet (.par .pwren) false (accept .init s)) :=
    (readyWithin_of_poweredUp (s := accept .init s) hw hup (pinSet_records _ _ _).now).mono hrdy
  have hwe := (hpower.atSeq (.running .init 2)).driveWe (by simpa using hcycle) true
  refine hwe.elapse ?_ ?_
  · simp [initBeforeWait, runSteps, pInitSteps, drive]
  · simp [initBeforeWait, runSteps, pInitSteps, drive]
    omega

/-- From `Disabled_P` the lines are then those of `Active_P` (R39, R172). -/
theorem initBeforeWait_lines {s : State} (h : s.disabledP = true) : ActiveLines (initBeforeWait s).parallel := by
  simp only [State.disabledP, Bool.and_eq_true, decide_eq_true_eq] at h
  obtain ⟨⟨⟨⟨⟨⟨hpwren, hshen⟩, hshclk⟩, hshdat⟩, -⟩, -⟩, hdata⟩ := h
  constructor <;>
    simp [initBeforeWait, runSteps, pInitSteps, drive, ParallelLines.set, ParallelLines.get, dataAll_iff, hpwren, hshen, hshclk,
      hshdat, dataAll_iff.1 hdata]

theorem initBeforeWait_lowAt_le {s : State} (h : s.pwrenLowAt ≤ s.now) :
    (initBeforeWait s).pwrenLowAt ≤ (initBeforeWait s).now :=
  runSteps_keeps (P := fun u => u.pwrenLowAt ≤ u.now) .init (pInitSteps.take 4) (fun _ _ h => h)
    (fun f hf => closed_stepsOf lowAtPast_closed .parallel .init f (List.mem_of_mem_take hf)) 1 (s := accept .init s) h

/-- What is left of `P.INIT` is its wait (R172 step 5). -/
theorem operate_pInit (s : State) : operate .init pInitSteps s =
    atSeq .idle (atSeq (.running .init 6) (waitMs Constants.tParPowerMs (initBeforeWait s))) := rfl

/-- `P.INIT` after a setup ends in the Active phase with a ready chip, where one is there and the wait of init covers both its
power-up and a write cycle (R172, R71, U16). -/
theorem pInit_ready {s : State} (hv : s.params.variant = .parallel) (hpresent : s.params.present = true)
    (hrdy : s.params.tRdyPar ≤ s.params.constants.tParPowerMs * 1000)
    (hcycle : s.params.tWcPar ≤ s.params.constants.tParPowerMs * 1000) (hdisabled : s.disabledP = true) (hw : WriteOver s)
    (hlow : s.pwrenLowAt ≤ s.now) :
    ∃ t, exec .pInit s = .next t ∧ t.params = s.params ∧ t.resultsDefined = true ∧ t.parallelReady = true := by
  have hoff : s.parallel.pwren = ⟨.output, true⟩ ∧ s.parallel.dataAll .input = true := by
    simp only [State.disabledP, Bool.and_eq_true, decide_eq_true_eq] at hdisabled
    obtain ⟨⟨⟨⟨⟨⟨hpwren, -⟩, -⟩, -⟩, -⟩, -⟩, hdata⟩ := hdisabled
    exact ⟨hpwren, hdata⟩
  have hready := initBeforeWait_ready hoff.1 hw hrdy hcycle
  have hlines := initBeforeWait_lines hdisabled
  have hlow' := initBeforeWait_lowAt_le hlow
  have hparams : (initBeforeWait s).params = s.params :=
    params_runSteps (v := .parallel) (List.take_subset _ _) 1 (accept .init s)
  refine ⟨_, exec_pInit hv (by simp [State.initContends, hoff.2]), ?_⟩
  rw [operate_pInit, waitMs_eq, hparams]
  generalize initBeforeWait s = u at *
  have hpast : (delayMs s.params.constants.tParPowerMs u).deadlinesPast = true :=
    readyWithin_zero_iff.1 (hready.elapse rfl (by simp))
  refine ⟨hparams, (resultsDefined_parallel (hparams ▸ hv)).2 (activeP_iff.2 ⟨hlines, ?_⟩),
    parallelReady_iff.2 ⟨hparams ▸ hpresent, hlines.pwren, hpast⟩⟩
  simp [hparams]
  omega

/-! ## From any state to the byte written -/

/-- Settles O57: setup and init make the chip ready in the Active phase, and from there a writeByte and a readByte are the round
trip of the variant at one address. -/
theorem lifecycleRoundTrip : Obligations.LifecycleRoundTrip := by
  constructor
  · intro a x s hv hpresent htimely hs hw
    obtain ⟨t, hsetup, hpt, hoff, hwt⟩ := sSetup_off hv hw
    obtain ⟨u, hinit, hpu, hdu, hru⟩ := sInit_ready (hpt ▸ hv) (hpt ▸ hpresent) (hpt ▸ htimely) hoff hwt
    have hsu := sound_exec hinit (sound_exec hsetup hs)
    have hpu' := hpu.trans hpt
    obtain ⟨v, w, hwrite, hread, hrdata⟩ := serialRoundTrip a a x u (hpu' ▸ hv) hdu hsu (hpu ▸ hru) (hpu' ▸ htimely)
    exact ⟨t, u, v, w, hsetup, hinit, hwrite, hread, hrdata.trans (if_pos rfl)⟩
  · intro a x s hv hpresent htimely hcycle hs hw
    obtain ⟨-, -, htwc, -, htrdy, -⟩ := timely_iff.1 htimely
    obtain ⟨t, hsetup, hpt, hdisabled, hwt⟩ := pSetup_off hv hw
    have hst := sound_exec hsetup hs
    obtain ⟨u, hinit, hpu, hdu, hru⟩ := pInit_ready (hpt ▸ hv) (hpt ▸ hpresent) (hpt ▸ htrdy)
      (hpt ▸ htwc.trans (Nat.mul_le_mul_right 1000 hcycle)) hdisabled hwt (sound_iff.1 hst).2
    have hpu' := hpu.trans hpt
    obtain ⟨v, w, hwrite, hread, hrdata⟩ :=
      parallelRoundTrip a a x u (hpu' ▸ hv) hdu (sound_exec hinit hst) hru (hpu' ▸ htimely)
    exact ⟨t, u, v, w, hsetup, hinit, hwrite, hread, hrdata.trans (if_pos rfl)⟩

end Sys2Proof.Machine
end

section
/-! The command word (spec/30_encoding.md R80 to R86, R98): what the decoder makes of the fields of a word, whether the word comes
from the encoder, from a row of the opcode table or from the assembler; and which words it rejects. -/

namespace Sys2Proof

/-! ## The decoder, by the fields of the word -/

@[simp] theorem opOfCode_codeOfOp (op : Op) : opOfCode (codeOfOp op) = some op := by cases op <;> rfl

/-- The row of a block's own strap (R83). -/
theorem instrOf_eq_ite (v : Variant) (op : Op) (a : Addr) (x : Byte) :
    instrOf v op a x = if v = .serial then instrOf .serial op a x else instrOf .parallel op a x := by
  cases v <;> rfl

/-- An instruction is the row that its variant, its operation and its operands select (R100). -/
theorem instrOf_fields (i : Instr) : instrOf i.variant i.op i.addressField i.valueField = i := by cases i <;> rfl

/-- A word with no reserved bit set and the code of an operation is that operation on the word's operand fields (R80, R81). -/
theorem decode_of_fields {w : CmdWord} {op : Op} (hzero : cmdZero w = 0#5) (hop : cmdOp w = codeOfOp op) (v : Variant) :
    decode v w = .ok (instrOf v op (cmdAddress w) (cmdValue w)) := by
  rw [decode, if_pos hzero, hop, opOfCode_codeOfOp]

theorem decode_packCmd (v : Variant) (op : Op) (a : Addr) (x : Byte) :
    decode v (packCmd (codeOfOp op) a x) = .ok (instrOf v op a x) := by
  rw [decode_of_fields (cmdZero_packCmd _ _ _) (cmdOp_packCmd _ _ _), cmdAddress_packCmd, cmdValue_packCmd]

/-! ## Canonical words (R82) -/

theorem decode_encode (i : Instr) : decode i.variant (encode i) = .ok i := by
  rw [encode, decode_packCmd, instrOf_fields]

/-- Settles O1: the canonical word holds the instruction's own fields, and a block has only instructions of its variant. -/
theorem decodeOfEncodeIsTheInstruction : Obligations.DecodeOfEncodeIsTheInstruction := by
  intro v i hwf
  obtain rfl : i.variant = v := of_decide_eq_true hwf
  exact decode_encode i

/-- Settles O4: each worked word is the canonical word of its instruction. -/
theorem workedEncodingsDecode : Obligations.WorkedEncodingsDecode :=
  ⟨decode_encode (.sWrite 0x1234#16 0xAB#8), decode_encode (.pWrite 0x1234#16 0xAB#8), decode_encode (.sRead 0x1234#16),
    decode_encode (.pRead 0x1234#16), decode_encode .sSetup, decode_encode .pSetup, decode_encode .sInit, decode_encode .pInit,
    decode_encode .sDisable, decode_encode .pDisable⟩

/-! ## Words under the mask of the opcode table (R100) -/

/-- The mask of every row keeps the eight bits that are no operand. -/
theorem cmdZero_masked (w : CmdWord) : cmdZero (w &&& 0xFF000000#32) = cmdZero w := by
  have hmask : (0xFF000000#32).extractLsb' 27 5 = BitVec.allOnes 5 := rfl
  rw [cmdZero, BitVec.extractLsb'_and, hmask, BitVec.and_allOnes, cmdZero]

theorem cmdOp_masked (w : CmdWord) : cmdOp (w &&& 0xFF000000#32) = cmdOp w := by
  have hmask : (0xFF000000#32).extractLsb' 24 3 = BitVec.allOnes 3 := rfl
  rw [cmdOp, BitVec.extractLsb'_and, hmask, BitVec.and_allOnes, cmdOp]

/-- A word that is an operation's code under the mask is that operation on its own operand fields, whatever they hold. -/
theorem decode_of_masked (op : Op) {w : CmdWord} (h : w &&& 0xFF000000#32 = packCmd (codeOfOp op) 0#16 0#8) (v : Variant) :
    decode v w = .ok (if v = .serial then instrOf .serial op (cmdAddress w) (cmdValue w)
      else instrOf .parallel op (cmdAddress w) (cmdValue w)) := by
  have hzero : cmdZero w = 0#5 := by rw [← cmdZero_masked, h, cmdZero_packCmd]
  have hop : cmdOp w = codeOfOp op := by rw [← cmdOp_masked, h, cmdOp_packCmd]
  rw [decode_of_fields hzero hop, instrOf_eq_ite]

/-- Settles O2: the five rows are the five operations' codes under one mask. -/
theorem maskedWordDecodesToItsRow : Obligations.MaskedWordDecodesToItsRow := fun v _ =>
  ⟨fun h => decode_of_masked .setup h v, fun h => decode_of_masked .init h v, fun h => decode_of_masked .read h v,
    fun h => decode_of_masked .write h v, fun h => decode_of_masked .disable h v⟩

/-! ## The host's calls (R98) -/

theorem readByte_wellFormed_iff {a : Nat} : (Call.readByte a).wellFormed = true ↔ a ≤ 65535 := decide_eq_true_iff

theorem writeByte_wellFormed_iff {a x : Nat} : (Call.writeByte a x).wellFormed = true ↔ a ≤ 65535 ∧ x ≤ 255 := by
  rw [Call.wellFormed, Bool.and_eq_true, decide_eq_true_iff, decide_eq_true_iff]

theorem assemble_eq_none {c : Call} (h : ¬ c.wellFormed = true) : assemble c = none := if_neg h

/-- A call that assembles to the word of an operation and its operands decodes to that operation on them. -/
theorem decode_assembled {c : Call} {op : Op} {a : Addr} {x : Byte} (h : assemble c = some (packCmd (codeOfOp op) a x))
    (v : Variant) : ∃ w, assemble c = some w
      ∧ decode v w = .ok (if v = .serial then instrOf .serial op a x else instrOf .parallel op a x) :=
  ⟨_, h, by rw [decode_packCmd, instrOf_eq_ite]⟩

/-- Settles O5: a call in range assembles to the packed word of its operation, and any other to none. -/
theorem assembledCallDecodesToTheCall : Obligations.AssembledCallDecodesToTheCall := by
  intro v
  refine ⟨decode_assembled (op := .setup) rfl v, decode_assembled (op := .init) rfl v, decode_assembled (op := .disable) rfl v,
    fun a ha => ?_, fun a x ha hx => ?_, fun a ha => ?_, fun a x hax => ?_⟩
  · exact decode_assembled (op := .read) (if_pos (readByte_wellFormed_iff.2 ha)) v
  · exact decode_assembled (op := .write) (if_pos (writeByte_wellFormed_iff.2 ⟨ha, hx⟩)) v
  · exact assemble_eq_none (by rw [readByte_wellFormed_iff]; omega)
  · exact assemble_eq_none (by rw [writeByte_wellFormed_iff]; omega)

/-! ## Reserved words (R85) -/

theorem opOfCode_reserved {c : BitVec 3} (h : c = 0#3 ∨ c = 6#3 ∨ c = 7#3) : opOfCode c = none := by
  rcases h with rfl | rfl | rfl <;> rfl

/-- A reserved word is no instruction of either variant. -/
theorem decode_reserved {w : CmdWord} (h : cmdZero w ≠ 0#5 ∨ cmdOp w = 0#3 ∨ cmdOp w = 6#3 ∨ cmdOp w = 7#3) (v : Variant) :
    ∃ e, decode v w = .error e := by
  by_cases hzero : cmdZero w = 0#5
  · have hop : opOfCode (cmdOp w) = none := opOfCode_reserved (h.resolve_left (not_not_intro hzero))
    exact ⟨.reservedOp, by rw [decode, if_pos hzero, hop]⟩
  · exact ⟨.zeroFieldSet, if_neg hzero⟩

end Sys2Proof

namespace Sys2Proof.Machine

/-- An idle block takes the word that the host presents (R137). -/
theorem step_idle_host {s : State} {w : CmdWord} {rest : List CmdWord} (hidle : s.seq = .idle) (hhost : s.host = w :: rest) :
    step s = present w rest s := by
  rw [step, hidle]
  simp only [awaitCommand, hhost]

/-- Without a word an idle block waits (R137, R210). -/
theorem step_idle_noHost {s : State} (hidle : s.seq = .idle) (hhost : s.host = []) : step s = .next s := by
  rw [step, hidle]
  simp only [awaitCommand, hhost]

theorem present_ok {s : State} {w : CmdWord} {i : Instr} (h : decode s.params.variant w = .ok i) (rest : List CmdWord) :
    present w rest s = exec i { s with host := rest } := by
  rw [present, h]

theorem present_error {s : State} {w : CmdWord} {e : DecodeError} (h : decode s.params.variant w = .error e)
    (rest : List CmdWord) : present w rest s = .refused (.reservedWord e w) := by
  rw [present, h]

/-- Settles O3: the decoder rejects the word, and the port refuses what the decoder rejects. -/
theorem reservedWordIsRefused : Obligations.ReservedWordIsRefused := by
  intro s w rest hidle hhost hreserved
  obtain ⟨e, he⟩ := decode_reserved hreserved s.params.variant
  exact ⟨e, (step_idle_host hidle hhost).trans (present_error he rest)⟩

end Sys2Proof.Machine
end

section
/-! The data bus (spec/30_encoding.md R90, R91): line `Di` carries bit `i`, from `WDATA` to the latches and from the sampled levels
to `RDATA`. -/

namespace Sys2Proof.Machine

/-- Bit `i` of the byte assembled from eight levels is the `i`-th level (R91). -/
theorem assembleByte_getLsbD (g : List Bool) {i : Nat} (hi : i < 8) : (assembleByte g).getLsbD i = g.getD i false := by
  rw [assembleByte, BitVec.getLsbD_ofNat, bitsValue_testBit, decide_eq_true hi, Bool.true_and]

theorem dataLines_index_lt : ∀ p ∈ dataLines, p.2 < 8 := by decide

/-- An output drives its latch (R28, R29). -/
theorem drive_of_output {r : LineReg} (h : r.dir = .output) : r.drive = Level.ofBool r.lat := by rw [LineReg.drive, h]

/-- `dataSet` writes the latch of each data line with the line's bit of `WDATA`, and no direction (R90, R174). -/
theorem dataSet_get (s : State) : ∀ p ∈ dataLines,
    (dataSet s).parallel.get p.1 = { s.parallel.get p.1 with lat := s.wdata.getLsbD p.2 } := by
  rw [dataSet_parallel]
  simp only [dataLines, List.forall_mem_cons]
  exact ⟨rfl, rfl, rfl, rfl, rfl, rfl, rfl, rfl, nofun⟩

/-- Where the phase makes the result defined, `RDATA` takes the byte of the sampled levels (R91, R173). -/
theorem takeSample_rdata {s : State} (h : s.inPhase = true) : (takeSample s).rdata = assembleByte s.sampled :=
  setRdata_rdata h _

/-- Settles O16. -/
theorem dataBusCarriesBitAtItsIndex : Obligations.DataBusCarriesBitAtItsIndex := by
  refine ⟨fun s => ⟨dataSet_dataByte s, fun p hp => ?_⟩, fun s => ?_, assembleByte_dataBits,
    fun g _ i hi => assembleByte_getLsbD g hi⟩
  · have hline := dataSet_get s p hp
    exact ⟨by rw [hline], fun hout => by rw [hline]; exact drive_of_output hout⟩
  · obtain ⟨g, hlength, hsampled, hlog, -, -⟩ := dataGet_sampled s
    refine ⟨g, hlength, by simp [State.trace, hlog], fun hphase p hp => ?_⟩
    rw [takeSample_rdata ((dataGet_inPhase s).trans hphase), hsampled]
    exact assembleByte_getLsbD g (dataLines_index_lt p hp)

end Sys2Proof.Machine
end

section
/-! The strap (spec/30_encoding.md R83, 41_eepromio_contract.md R130): a block has the instructions of its own variant only, and its
steps touch nothing of the other variant and no parameter (10_state.md R35). -/

namespace Sys2Proof.Machine

/-! ## Instructions of the other variant -/

/-- Every instruction is its operation, kept to the blocks of its variant (R83, R100). -/
theorem exec_eq_onVariant (i : Instr) (s : State) :
    exec i s = onVariant i.variant s (perform i.op (stepsOf i.variant i.op) (loadOperands i s)) := by cases i <;> rfl

theorem onVariant_other {v : Variant} {s : State} (h : s.params.variant ≠ v) (o : Host.Outcome State Fault Refusal) :
    onVariant v s o = .refused .otherVariant := if_neg h

/-- Settles O10. -/
theorem otherVariantHasNoInstruction : Obligations.OtherVariantHasNoInstruction := by
  intro i s hne
  rw [exec_eq_onVariant, onVariant_other (Ne.symm hne)]

/-! ## What a step leaves alone -/

/-- Where a step has a next state (R137, R138): nothing was presented, or the operation in progress was completed, or an instruction
of the block's variant was run whole. -/
theorem step_next_cases {s t : State} (h : step s = .next t) :
    t = s
      ∨ (∃ op k, s.seq = .running op k
          ∧ t = finish op (runSteps op ((stepsOf s.params.variant op).drop (k - 1)) k s))
      ∨ ∃ i rest, s.params.variant = i.variant
          ∧ t = operate i.op (stepsOf i.variant i.op) (loadOperands i { s with host := rest }) := by
  cases hseq : s.seq with
  | running op k =>
    rw [step_running hseq] at h
    cases hstop : s.stopAt op k with
    | some r => rw [resume_some hstop] at h; cases h
    | none =>
      rw [resume_none hstop] at h
      exact .inr (.inl ⟨op, k, rfl, (Host.Outcome.next.inj h).symm⟩)
  | idle =>
    cases hhost : s.host with
    | nil =>
      rw [step_idle_noHost hseq hhost] at h
      exact .inl (Host.Outcome.next.inj h).symm
    | cons w rest =>
      rw [step_idle_host hseq hhost] at h
      cases hdecode : decode s.params.variant w with
      | error e => rw [present_error hdecode] at h; cases h
      | ok i =>
        rw [present_ok hdecode] at h
        obtain ⟨hvariant, -, ht⟩ := exec_next h
        exact .inr (.inr ⟨i, rest, hvariant, hseq ▸ ht⟩)

/-- `g` reads nothing that acceptance or the end of an operation writes: `SEQ`, the operands, the host's words, and, outside the
Active phase, the chip (R24, R137, U1). -/
structure ApartFromSequencer {γ : Type} (g : State → γ) : Prop where
  atSeq : ∀ q s, g (atSeq q s) = g s
  accept : ∀ op s, g (accept op s) = g s
  loadOperands : ∀ i s, g (loadOperands i s) = g s
  setHost : ∀ ws s, g ({ s with host := ws } : State) = g s
  finish : ∀ op s, g (finish op s) = g s

/-- What acceptance and the end of an operation do not write, and no step of an operation of the block's variant either, a step of
the machine leaves as it was. -/
theorem ApartFromSequencer.step_same {γ : Type} {g : State → γ} (hg : ApartFromSequencer g) {s t : State}
    (hsteps : ∀ op, ∀ f ∈ stepsOf s.params.variant op, ∀ u, g (f u) = g u) (h : step s = .next t) : g t = g s := by
  obtain rfl | ⟨op, k, -, rfl⟩ | ⟨i, rest, hvariant, rfl⟩ := step_next_cases h
  · rfl
  · rw [hg.finish, runSteps_same g op (fun u q => hg.atSeq q u) (fun f hf => hsteps op f (List.mem_of_mem_drop hf))]
  · rw [operate, hg.finish, runSteps_same g i.op (fun u q => hg.atSeq q u) (hvariant ▸ hsteps i.op), hg.accept, hg.loadOperands,
      hg.setHost]

/-! ## The parameters -/

theorem params_apart : ApartFromSequencer State.params :=
  ⟨fun _ _ => rfl, fun _ _ => rfl, loadOperands_params, fun _ _ => rfl, finish_params⟩

theorem params_stepsOf (v : Variant) (op : Op) : ∀ f ∈ stepsOf v op, ∀ s, (f s).params = s.params :=
  fun f hf s => congrArg Prod.fst (accepted_stepsOf v op f hf s)

/-! ## The parallel side of a serial block -/

/-- What belongs to the parallel variant (R27, R31), as `SameParallelSide` lists it. -/
def State.parallelSide (s : State) : ParallelLines × Addr × Nat × List Bool := (s.parallel, s.sr, s.pwrenLowAt, s.sampled)

theorem parallelSide_eq_iff {s t : State} : t.parallelSide = s.parallelSide ↔ SameParallelSide s t := by
  simp [State.parallelSide, SameParallelSide]

theorem parallelSide_apart : ApartFromSequencer State.parallelSide where
  atSeq _ _ := rfl
  accept _ _ := rfl
  loadOperands i _ := by cases i <;> rfl
  setHost _ _ := rfl
  finish op s := by simp [State.parallelSide]

@[simp] theorem parallelSide_floatSerial (s : State) : (floatSerial s).parallelSide = s.parallelSide :=
  foldl_keeps State.parallelSide _ (fun s l => by simp [State.parallelSide]) _ s

@[simp] theorem parallelSide_stopTransport (s : State) : (stopTransport s).parallelSide = s.parallelSide := by
  unfold stopTransport; split <;> rfl

@[simp] theorem parallelSide_pinSetSer (l : SLine) (v : Bool) (s : State) :
    (pinSet (.ser l) v s).parallelSide = s.parallelSide := by simp [State.parallelSide]

/-- No step of a serial operation writes anything of the parallel variant. -/
theorem parallelSide_stepsOf (op : Op) : ∀ f ∈ stepsOf .serial op, ∀ s, (f s).parallelSide = s.parallelSide := by
  cases op with
  | setup =>
    simp only [stepsOf, sSetupSteps, List.forall_mem_cons]
    exact ⟨fun _ => rfl, by simp [callSDisable, sDisableSteps], nofun⟩
  | init => simp [stepsOf, sInitSteps, drive, State.parallelSide]
  | read => simp [stepsOf, sReadSteps, sendAddress, requestByte, takeAnswer, State.parallelSide]
  | write => simp [stepsOf, sWriteSteps, sendWrite, State.parallelSide]
  | disable => simp [stepsOf, sDisableSteps]

/-! ## The serial side of a parallel block -/

/-- What belongs to the serial variant (R25, R26, R32), as `SameSerialSide` lists it. -/
def State.serialSide (s : State) : Bool × SerialLines × Transport × List Byte := (s.started, s.serial, s.transport, s.answer)

theorem serialSide_eq_iff {s t : State} : t.serialSide = s.serialSide ↔ SameSerialSide s t := by
  simp [State.serialSide, SameSerialSide]

theorem serialSide_apart : ApartFromSequencer State.serialSide where
  atSeq _ _ := rfl
  accept _ _ := rfl
  loadOperands i _ := by cases i <;> rfl
  setHost _ _ := rfl
  finish op s := by simp [State.serialSide]

/-- No step of a parallel operation writes anything of the serial variant. -/
theorem serialSide_stepsOf (op : Op) : ∀ f ∈ stepsOf .parallel op, ∀ s, (f s).serialSide = s.serialSide := by
  cases op with
  | setup => simp [stepsOf, pSetupSteps, callPDisable, pDisableSteps, State.serialSide]
  | init => simp [stepsOf, pInitSteps, drive, State.serialSide]
  | read => simp [stepsOf, pReadSteps, latchAddr, takeSample, State.serialSide]
  | write => simp [stepsOf, pWriteSteps, latchAddr, State.serialSide]
  | disable => simp [stepsOf, pDisableSteps, State.serialSide]

/-- Settles O53: none of the three is written by acceptance, by the end of an operation, or by a step of an operation of the block's
own variant. -/
theorem stepStaysWithinItsVariant : Obligations.StepStaysWithinItsVariant := by
  intro s t hstep
  refine ⟨params_apart.step_same (params_stepsOf _) hstep, fun hv => ?_, fun hv => ?_⟩
  · exact parallelSide_eq_iff.1 (parallelSide_apart.step_same (hv ▸ parallelSide_stepsOf) hstep)
  · exact serialSide_eq_iff.1 (serialSide_apart.step_same (hv ▸ serialSide_stepsOf) hstep)

end Sys2Proof.Machine
end

section
/-! The line primitives (spec/40_line_primitives.md R110 to R115): what a write of a line's registers leaves of every line and of
the block, what `PinGet` sees of an output, and what a delay writes. -/

namespace Sys2Proof.Machine

/-! ## Line registers after a write (R28) -/

/-- A line holds what is written to it. -/
theorem line_putLine (l : Line) (r : LineReg) (s : State) : (s.putLine l r).line l = r := by
  cases l with
  | ser l => simp only [State.putLine, State.line, putSerial_serial, SerialLines.get_set]
  | par l => simp only [State.putLine, State.line, putParallel_parallel, ParallelLines.get_set]

/-- A write of one line writes no other, of either variant. -/
theorem line_putLine_ne {l m : Line} (h : m ≠ l) (r : LineReg) (s : State) : (s.putLine l r).line m = s.line m := by
  cases l with
  | ser l => cases m with
    | ser m =>
      rw [State.putLine, State.line, putSerial_serial]
      exact SerialLines.get_set_ne _ _ fun hm => h (congrArg Line.ser hm)
    | par m => rw [State.putLine, State.line, putSerial_parallel, State.line]
  | par l => cases m with
    | ser m => rw [State.putLine, State.line, putParallel_serial, State.line]
    | par m =>
      rw [State.putLine, State.line, putParallel_parallel]
      exact ParallelLines.get_set_ne _ _ fun hm => h (congrArg Line.par hm)

/-- An output drives its latch, an input nothing (R28, R29). -/
theorem drive_eq_ite (r : LineReg) : r.drive = if r.dir = .output then Level.ofBool r.lat else .undriven := by
  obtain ⟨dir, lat⟩ := r
  cases dir <;> rfl

/-! ## `PinMode` and `PinSet` (R110, R111) -/

theorem trace_of_log {e : Event} {s t : State} (h : t.log = e :: s.log) : t.trace = s.trace ++ [e] := by
  rw [State.trace, h, List.reverse_cons, State.trace]

/-- `t` is `s` with the registers of the line `l` at `r` and the event `e` recorded; the other lines, the registers of the block
and the transport are as they were. Only what is wired to the line may have reacted: `SR` to `SHCLK`, the chip to its own lines. -/
structure WritesLine (l : Line) (r : LineReg) (e : Event) (s t : State) : Prop where
  line : t.line l = r
  others : ∀ m, m ≠ l → t.line m = s.line m
  trace : t.trace = s.trace ++ [e]
  sr : l ≠ .par .shclk → t.sr = s.sr
  regs : SameRegs s t
  seq : t.seq = s.seq
  started : t.started = s.started
  transport : t.transport = s.transport

theorem putLine_sr {l : Line} (h : l ≠ .par .shclk) (r : LineReg) (s : State) : (s.putLine l r).sr = s.sr := by
  cases l with
  | ser l => exact putSerial_sr l r s
  | par l => exact putParallel_sr (fun hl => h (congrArg Line.par hl)) r s

/-- No reaction of what is wired to a line writes a register of the block, the transport or the trace (R123). -/
theorem putLine_keeps (l : Line) (r : LineReg) (s : State) : SameRegs s (s.putLine l r) ∧ (s.putLine l r).seq = s.seq
    ∧ (s.putLine l r).started = s.started ∧ (s.putLine l r).transport = s.transport ∧ (s.putLine l r).log = s.log := by
  cases l <;> simp [State.putLine, SameRegs]

/-- Both writes of a line are this: its registers, then the event and the time (R110, R111). -/
theorem putLine_emit_writesLine (l : Line) (r : LineReg) (e : Event) (s : State) :
    WritesLine l r e s (((s.putLine l r).emit e).tick 0) := by
  obtain ⟨hregs, hseq, hstarted, htransport, hlog⟩ := putLine_keeps l r s
  exact {
    line := line_putLine l r s
    others := fun m hm => line_putLine_ne hm r s
    trace := trace_of_log (congrArg (e :: ·) hlog)
    sr := fun hl => putLine_sr hl r s
    regs := hregs
    seq := hseq
    started := hstarted
    transport := htransport }

theorem pinMode_writesLine (l : Line) (d : Dir) (s : State) :
    WritesLine l { s.line l with dir := d } (.mode l d) s (pinMode l d s) := putLine_emit_writesLine l _ _ s

theorem pinSet_writesLine (l : Line) (v : Bool) (s : State) :
    WritesLine l { s.line l with lat := v } (.set l v) s (pinSet l v s) := putLine_emit_writesLine l _ _ s

/-- Settles O12: `PinMode` writes the line with its latch kept, and a line of that direction already with what it holds. -/
theorem pinModeWritesDirectionOnly : Obligations.PinModeWritesDirectionOnly := by
  intro l d s
  have h := pinMode_writesLine l d s
  exact ⟨by rw [h.line], by rw [h.line], by rw [h.line, drive_eq_ite], h.others, h.trace, h.sr, h.regs, h.seq, h.started,
    h.transport, pinMode_same⟩

/-- Settles O13: `PinSet` writes the line with its direction kept, and a line of that latch already with what it holds. -/
theorem pinSetWritesLatchOnly : Obligations.PinSetWritesLatchOnly := by
  intro l v s
  have h := pinSet_writesLine l v s
  exact ⟨by rw [h.line], by rw [h.line], by rw [h.line, drive_eq_ite], h.others, h.trace, h.sr, h.regs, h.seq, h.started,
    h.transport, pinSet_same⟩

/-! ## `PinGet` (R112) -/

/-- The transport owns the line (R29). -/
def State.owned (s : State) (l : Line) : Prop := s.transport.on = true ∧ (l = .ser .bclk ∨ l = .ser .bdat)

/-- A serial line that the transport does not own shows what the block drives it to (R29). -/
theorem eff_ser {s : State} {l : SLine} (h : ¬ s.owned (.ser l)) : s.eff (.ser l) = (s.serial.get l).drive := by
  cases l with
  | bclk => exact if_neg fun hon => h ⟨hon, .inl rfl⟩
  | bdat => exact if_neg fun hon => h ⟨hon, .inr rfl⟩
  | a0 | a1 | a2 | pwr | wp => rfl

/-- A line with a level is observed at that level (R29). -/
theorem observe_of_eff {s : State} {l : Line} {v : Bool} (h : s.eff l = Level.ofBool v) : s.observe l = v := by
  rw [State.observe, h]
  cases v <;> rfl

/-- An output that the transport does not own reads as its latch: a serial one by the level it shows, a parallel one whether
contended or not (R112, R173). -/
theorem pinLevel_of_output {s : State} {l : Line} (hout : (s.line l).dir = .output) (hfree : ¬ s.owned l) :
    pinLevel l s = (s.line l).lat := by
  cases l with
  | ser l => exact observe_of_eff ((eff_ser hfree).trans (drive_of_output hout))
  | par l => exact pinLevel_output hout

/-- `PinGet` writes no line's registers. -/
theorem pinGet_line (l m : Line) (s : State) : (pinGet l s).line m = s.line m := by
  cases m with
  | ser m => rw [State.line, pinGet_serial, State.line]
  | par m => rw [State.line, pinGet_parallel, State.line]

/-- Settles O14: the level is the latch's, the event carries that level, and nothing else of the block is written. -/
theorem pinGetOfOutputIsItsLatch : Obligations.PinGetOfOutputIsItsLatch := by
  intro l s hout hbus
  have hfree : ¬ s.owned l := fun ⟨hon, hl⟩ => hl.elim (hbus hon).1 (hbus hon).2
  have hlevel := pinLevel_of_output hout hfree
  have hregs : SameRegs s (pinGet l s) := ⟨pinGet_addr l s, pinGet_wdata l s, pinGet_rdata l s⟩
  exact ⟨hlevel, hlevel ▸ trace_of_log (pinGet_log l s), fun m => pinGet_line l m s, hregs, pinGet_sr l s, pinGet_seq l s,
    pinGet_started l s, pinGet_chip l s⟩

/-! ## Delays (R113, R115) -/

theorem now_add_le_delayUs (n : Nat) (s : State) : s.now + n ≤ (delayUs n s).now := by
  rw [delayUs_now]
  exact Nat.le_add_right _ _

theorem now_add_le_delayMs (n : Nat) (s : State) : s.now + n * 1000 ≤ (delayMs n s).now := by
  rw [delayMs_now]
  exact Nat.le_add_right _ _

/-- Settles O15: what a delay takes beyond its argument is the environment's, and its frame is `NOW`, the trace and that input. -/
theorem delaysAreLowerBounds : Obligations.DelaysAreLowerBounds := fun n s =>
  ⟨now_add_le_delayUs n s, delayUs_frame n s, now_add_le_delayMs n s, delayMs_frame n s⟩

end Sys2Proof.Machine
end

section
/-! The port of an idle block (spec/41_eepromio_contract.md R137), and setup against disable (R141 P8, 90_conflicts.md C2): each
operation as what it makes of a bank of line registers. -/

namespace Sys2Proof.Machine

/-! ## The port of an idle block (R137, R210) -/

/-- Settles O6: the idle block takes the word, and a word that decodes is run without it on the port. -/
theorem stepRunsTheDecodedInstruction : Obligations.StepRunsTheDecodedInstruction := fun _ _ rest _ hidle hhost hdecode =>
  (step_idle_host hidle hhost).trans (present_ok hdecode rest)

/-- Settles O7: an idle block with an empty port waits. -/
theorem idleBlockWithoutCommandStays : Obligations.IdleBlockWithoutCommandStays := fun _ => step_idle_noHost

/-! ## Serial setup and disable (R150, R154) -/

/-- What `S.DISABLE` makes of the serial lines: every line floats, `WP` and `PWR` with their latches low (R154). -/
def SerialLines.disabled (b : SerialLines) : SerialLines :=
  ⟨⟨.input, b.a0.lat⟩, ⟨.input, b.a1.lat⟩, ⟨.input, b.a2.lat⟩, ⟨.input, false⟩, ⟨.input, false⟩, ⟨.input, b.bclk.lat⟩,
    ⟨.input, b.bdat.lat⟩⟩

@[simp] theorem stopTransport_serial (s : State) : (stopTransport s).serial = s.serial := by
  cases h : s.started <;> simp [stopTransport, h]

@[simp] theorem floatSerial_serial (s : State) : (floatSerial s).serial =
    ⟨⟨.input, s.serial.a0.lat⟩, ⟨.input, s.serial.a1.lat⟩, ⟨.input, s.serial.a2.lat⟩, ⟨.input, s.serial.pwr.lat⟩,
      ⟨.input, s.serial.wp.lat⟩, ⟨.input, s.serial.bclk.lat⟩, ⟨.input, s.serial.bdat.lat⟩⟩ := by
  simp [floatSerial, SerialLines.set, SerialLines.get]

@[simp] theorem callSDisable_serial (s : State) : (callSDisable s).serial = s.serial.disabled := by
  simp [callSDisable, sDisableSteps, SerialLines.set, SerialLines.get, SerialLines.disabled]

@[simp] theorem callSDisable_started (s : State) : (callSDisable s).started = false := by
  simp [callSDisable, sDisableSteps]

/-- `S.DISABLE` leaves the lines disabled and the flag clear, from any state in which it runs (R154). -/
theorem sDisable_disabled {s t : State} (h : exec .sDisable s = .next t) : t.serial = s.serial.disabled ∧ t.started = false := by
  obtain ⟨-, -, rfl⟩ := exec_next h
  constructor <;> simp [Instr.op, Instr.variant, stepsOf, loadOperands, operate, runSteps, sDisableSteps, SerialLines.set,
    SerialLines.get, SerialLines.disabled]

/-- `S.SETUP` leaves the same, since its only step beside the call clears the flag (R150). -/
theorem sSetup_disabled {s t : State} (h : exec .sSetup s = .next t) : t.serial = s.serial.disabled ∧ t.started = false := by
  obtain ⟨-, -, rfl⟩ := exec_next h
  constructor <;> simp [Instr.op, Instr.variant, stepsOf, loadOperands, operate, runSteps, sSetupSteps]

/-- Serial setup and serial disable end with the same lines and flag, from any state in which both run (R141 P8). -/
theorem sSetup_agrees_sDisable {s t u : State} (ht : exec .sSetup s = .next t) (hu : exec .sDisable s = .next u) :
    t.serial = u.serial ∧ t.started = u.started := by
  obtain ⟨htl, htf⟩ := sSetup_disabled ht
  obtain ⟨hul, huf⟩ := sDisable_disabled hu
  exact ⟨htl.trans hul.symm, htf.trans huf.symm⟩

/-! ## Parallel setup and disable (R171, R175) -/

/-- The lines that `P.SETUP` makes outputs (R171), the only ones whose direction `P.DISABLE` leaves alone (R175). -/
abbrev PLine.SetupDriven (l : PLine) : Prop := l = .pwren ∨ l = .shen ∨ l = .shclk ∨ l = .shdat

/-- What the first four steps of `P.SETUP` make of the parallel lines (R171). -/
def ParallelLines.setupDriven (b : ParallelLines) : ParallelLines :=
  { b with
    pwren := ⟨.output, b.pwren.lat⟩, shen := ⟨.output, b.shen.lat⟩, shclk := ⟨.output, b.shclk.lat⟩
    shdat := ⟨.output, b.shdat.lat⟩ }

/-- What `P.DISABLE` makes of the parallel lines (R175). -/
def ParallelLines.disabled (b : ParallelLines) : ParallelLines :=
  { b with
    d0 := ⟨.input, b.d0.lat⟩, d1 := ⟨.input, b.d1.lat⟩, d2 := ⟨.input, b.d2.lat⟩, d3 := ⟨.input, b.d3.lat⟩
    d4 := ⟨.input, b.d4.lat⟩, d5 := ⟨.input, b.d5.lat⟩, d6 := ⟨.input, b.d6.lat⟩, d7 := ⟨.input, b.d7.lat⟩
    shen := ⟨b.shen.dir, false⟩, we := ⟨.input, b.we.lat⟩, oe := ⟨.input, b.oe.lat⟩, pwren := ⟨b.pwren.dir, true⟩ }

theorem setupDriven_lat (b : ParallelLines) (l : PLine) : (b.setupDriven.get l).lat = (b.get l).lat := by cases l <;> rfl

theorem setupDriven_dir {l : PLine} (h : l.SetupDriven) (b : ParallelLines) : (b.setupDriven.get l).dir = .output := by
  rcases h with rfl | rfl | rfl | rfl <;> rfl

theorem disabled_lat (b : ParallelLines) (l : PLine) : (b.disabled.get l).lat =
    if l = .pwren then true else if l = .shen then false else (b.get l).lat := by cases l <;> rfl

theorem disabled_dir (b : ParallelLines) (l : PLine) : (b.disabled.get l).dir =
    if l.SetupDriven then (b.get l).dir else .input := by cases l <;> rfl

@[simp] theorem callPDisable_parallel (s : State) : (callPDisable s).parallel = s.parallel.disabled := by
  simp [callPDisable, pDisableSteps, ParallelLines.set, ParallelLines.get, ParallelLines.disabled]

theorem pDisable_parallel {s t : State} (h : exec .pDisable s = .next t) : t.parallel = s.parallel.disabled := by
  obtain ⟨-, -, rfl⟩ := exec_next h
  simp [Instr.op, Instr.variant, stepsOf, loadOperands, operate, runSteps, pDisableSteps, ParallelLines.set,
    ParallelLines.get, ParallelLines.disabled]

theorem pSetup_parallel {s t : State} (h : exec .pSetup s = .next t) : t.parallel = s.parallel.setupDriven.disabled := by
  obtain ⟨-, -, rfl⟩ := exec_next h
  simp [Instr.op, Instr.variant, stepsOf, loadOperands, operate, runSteps, pSetupSteps, ParallelLines.set,
    ParallelLines.get, ParallelLines.setupDriven]

/-- Disabling a bank whether or not setup has driven its lines first gives the same latches. -/
theorem disabled_setupDriven_lat (b : ParallelLines) (l : PLine) :
    (b.setupDriven.disabled.get l).lat = (b.disabled.get l).lat := by
  rw [disabled_lat, disabled_lat, setupDriven_lat]

/-- Where every line was an input, it gives directions that differ at the lines setup drives and nowhere else. -/
theorem disabled_setupDriven_dir_ne_iff {b : ParallelLines} (hin : ∀ l, (b.get l).dir = .input) (l : PLine) :
    (b.setupDriven.disabled.get l).dir ≠ (b.disabled.get l).dir ↔ l.SetupDriven := by
  rw [disabled_dir, disabled_dir]
  by_cases h : l.SetupDriven
  · simp [setupDriven_dir h, hin l, h]
  · simp [h]

/-- In the reference fresh state every parallel line is an input (R37). -/
theorem fresh_parallel_dir (p : Params) (l : PLine) : ((State.fresh p).parallel.get l).dir = .input := by cases l <;> rfl

/-- Settles O59: the serial pair agrees from any state; of the parallel pair only setup's first four steps write a direction that
disable does not. -/
theorem setupAgainstDisableFromFresh : Obligations.SetupAgainstDisableFromFresh := by
  refine ⟨fun p t u => sSetup_agrees_sDisable, fun p t u ht hu l => ?_⟩
  rw [pSetup_parallel ht, pDisable_parallel hu]
  exact ⟨disabled_setupDriven_lat _ l, disabled_setupDriven_dir_ne_iff (fresh_parallel_dir p) l⟩

end Sys2Proof.Machine
end

section
/-! What an instruction that has a next state leaves, whichever it is (spec/41_eepromio_contract.md R137): the operation is over, the
other variant is untouched, and all but a writeByte keep the array of the serial chip. -/

namespace Sys2Proof.Machine

theorem loadOperands_host (i : Instr) (s : State) : (loadOperands i s).host = s.host := by cases i <;> rfl

theorem loadOperands_memRead (i : Instr) (s : State) (a : Addr) : (loadOperands i s).memRead a = s.memRead a := by
  cases i <;> rfl

theorem resultsDefined_loadOperands (i : Instr) (s : State) : (loadOperands i s).resultsDefined = s.resultsDefined := by
  cases i <;> rfl

/-- The state of the whole operation (R137). -/
theorem exec_next_eq {i : Instr} {s t : State} (h : exec i s = .next t) :
    t = operate i.op (stepsOf i.variant i.op) (loadOperands i s) := by
  obtain ⟨-, -, ht⟩ := exec_next h
  exact ht

/-- An instruction whose operation is refused at its start is refused (R137). -/
theorem exec_refused {i : Instr} {s : State} {r : Refusal} (hv : s.params.variant = i.variant) (h : s.stopAt i.op 1 = some r) :
    exec i s = .refused r := by
  rw [exec_own hv, perform, stopAt_loadOperands, h]

/-- The block is idle again, with the parameters and the host's words as they were (R35, R137, R138). -/
theorem exec_next_completed {i : Instr} {s t : State} (h : exec i s = .next t) : Completed s t := by
  obtain ⟨-, -, rfl⟩ := exec_next h
  obtain ⟨hseq, hbusy, hparams, hhost⟩ :=
    finish_runSteps_completed (List.Subset.refl (stepsOf i.variant i.op)) 1 (accept i.op (loadOperands i s))
  exact ⟨hseq, hbusy, hparams.trans (loadOperands_params i s), hhost.trans (loadOperands_host i s)⟩

theorem exec_next_params {i : Instr} {s t : State} (h : exec i s = .next t) : t.params = s.params := by
  obtain ⟨-, -, hparams, -⟩ := exec_next_completed h
  exact hparams

/-- An instruction without operands that is no readByte leaves the operand and result registers (R21 to R23). -/
theorem exec_next_sameRegs {i : Instr} {s t : State} (h : exec i s = .next t) (hload : loadOperands i s = s)
    (hread : i.op ≠ .read) : SameRegs s t := by
  obtain ⟨haddr, hwdata⟩ := exec_next_operands h
  rw [hload] at haddr hwdata
  exact ⟨haddr, hwdata, exec_next_rdata h hread⟩

/-- A serial instruction leaves the parallel variant alone (R83). -/
theorem exec_next_sameParallelSide {i : Instr} {s t : State} (h : exec i s = .next t) (hi : i.variant = .serial) :
    SameParallelSide s t := by
  obtain ⟨-, -, rfl⟩ := exec_next h
  rw [hi, operate, ← parallelSide_eq_iff, parallelSide_apart.finish,
    runSteps_same State.parallelSide i.op (fun u q => parallelSide_apart.atSeq q u) (parallelSide_stepsOf i.op),
    parallelSide_apart.accept, parallelSide_apart.loadOperands]

/-! ## The end state of each instruction, as its list of steps (R100) -/

theorem sSetup_next {s t : State} (h : exec .sSetup s = .next t) :
    t = operate .setup sSetupSteps s := exec_next_eq (i := .sSetup) h

theorem sInit_next {s t : State} (h : exec .sInit s = .next t) : t = operate .init sInitSteps s := exec_next_eq (i := .sInit) h

theorem sRead_next {a : Addr} {s t : State} (h : exec (.sRead a) s = .next t) :
    t = operate .read sReadSteps (setAddr a s) := exec_next_eq (i := (.sRead a)) h

theorem sWrite_next {a : Addr} {x : Byte} {s t : State} (h : exec (.sWrite a x) s = .next t) :
    t = operate .write sWriteSteps (setWdata x (setAddr a s)) := exec_next_eq (i := (.sWrite a x)) h

theorem sDisable_next {s t : State} (h : exec .sDisable s = .next t) :
    t = operate .disable sDisableSteps s := exec_next_eq (i := .sDisable) h

theorem pSetup_next {s t : State} (h : exec .pSetup s = .next t) :
    t = operate .setup pSetupSteps s := exec_next_eq (i := .pSetup) h

theorem pInit_next {s t : State} (h : exec .pInit s = .next t) : t = operate .init pInitSteps s := exec_next_eq (i := .pInit) h

theorem pRead_next {a : Addr} {s t : State} (h : exec (.pRead a) s = .next t) :
    t = operate .read pReadSteps (setAddr a s) := exec_next_eq (i := (.pRead a)) h

theorem pWrite_next {a : Addr} {x : Byte} {s t : State} (h : exec (.pWrite a x) s = .next t) :
    t = operate .write pWriteSteps (setWdata x (setAddr a s)) := exec_next_eq (i := (.pWrite a x)) h

theorem pDisable_next {s t : State} (h : exec .pDisable s = .next t) :
    t = operate .disable pDisableSteps s := exec_next_eq (i := .pDisable) h

/-! ## The array of the serial chip -/

@[simp] theorem floatSerial_mem (s : State) : (floatSerial s).chip.mem = s.chip.mem :=
  foldl_keeps (fun s => s.chip.mem) _ (fun s l => pinModeSer_mem l .input s) _ s

@[simp] theorem stopTransport_chip (s : State) : (stopTransport s).chip = s.chip := by
  unfold stopTransport; split <;> simp

/-- Of the serial operations only a writeByte sends the chip a data byte (R69, R157). -/
theorem mem_stepsOf {op : Op} (h : op ≠ .write) : ∀ f ∈ stepsOf .serial op, ∀ s, (f s).chip.mem = s.chip.mem := by
  cases op with
  | setup => simp [stepsOf, sSetupSteps, callSDisable, sDisableSteps]
  | init => simp [stepsOf, sInitSteps, drive]
  | read => simp [stepsOf, sReadSteps, sendAddress, requestByte, takeAnswer]
  | write => exact absurd rfl h
  | disable => simp [stepsOf, sDisableSteps]

/-- The end of an operation keeps the array but for a readByte or writeByte outside the Active phase (U1, R232). -/
theorem finish_mem {op : Op} {s : State} (h : op = .read ∨ op = .write → s.inPhase = true) :
    (finish op s).chip.mem = s.chip.mem := by
  cases op with
  | setup | init | disable => rfl
  | read => rw [finish_inPhase_eq (h (.inl rfl)), atSeq_chip]
  | write => rw [finish_inPhase_eq (h (.inr rfl)), atSeq_chip]

/-- So a serial instruction that is no writeByte keeps every byte, a readByte where the phase makes its effect defined. -/
theorem exec_next_sameMem {i : Instr} {s t : State} (h : exec i s = .next t) (hi : i.variant = .serial) (hwrite : i.op ≠ .write)
    (hread : i.op = .read → s.resultsDefined = true) : SameMem s t := by
  have hparams := exec_next_params h
  obtain ⟨-, -, rfl⟩ := exec_next h
  obtain ⟨-, -, -, -, hphase⟩ :=
    accepted_eq_iff.1 (accepted_runSteps (List.Subset.refl (stepsOf i.variant i.op)) 1 (accept i.op (loadOperands i s)))
  have hsteps := runSteps_same (fun u => u.chip.mem) i.op (fun _ _ => rfl) (mem_stepsOf hwrite) 1 (accept i.op (loadOperands i s))
  have hmem : (operate i.op (stepsOf i.variant i.op) (loadOperands i s)).chip.mem = (loadOperands i s).chip.mem := by
    rw [operate, finish_mem, hi, hsteps, accept_chip]
    rintro (hop | hop)
    · rw [hphase, accept_inPhase, resultsDefined_loadOperands, hread hop]
    · exact absurd hop hwrite
  intro a
  rw [← loadOperands_memRead i s a, State.memRead, State.memRead, hparams, hmem, loadOperands_params]

end Sys2Proof.Machine
end

section
/-! The traces of the ten operations (spec/10_state.md R15, 42_serial_driver.md R150 to R155, 43_parallel_driver.md R171 to R175,
R179), and how many events each holds. -/

namespace Sys2Proof.Machine

/-- The trace by its log, the newest event first (R15). -/
theorem trace_eq_append {s t : State} {evs : List Event} (h : t.log = evs.reverse ++ s.log) : t.trace = s.trace ++ evs := by
  rw [State.trace, h, List.reverse_append, List.reverse_reverse, State.trace]

/-! ## The serial operations -/

@[simp] theorem stopTransport_log (s : State) :
    (stopTransport s).log = (if s.started then [.busEnd] else []) ++ s.log := by
  cases h : s.started <;> simp [stopTransport, h]

@[simp] theorem floatSerial_log (s : State) : (floatSerial s).log =
    .mode (.ser .bdat) .input :: .mode (.ser .bclk) .input :: .mode (.ser .wp) .input :: .mode (.ser .pwr) .input
      :: .mode (.ser .a2) .input :: .mode (.ser .a1) .input :: .mode (.ser .a0) .input :: s.log := by
  simp [floatSerial]

/-- `S.SETUP` clears the flag first, so its disable stops no transport (R150). -/
theorem sSetup_trace {s t : State} (h : exec .sSetup s = .next t) : t.trace = s.trace ++ sDisableEvents := by
  obtain rfl := sSetup_next h
  apply trace_eq_append
  simp [operate, runSteps, sSetupSteps, callSDisable, sDisableSteps, sDisableEvents]

theorem sInit_trace {s t : State} (h : exec .sInit s = .next t) : t.trace = s.trace ++ sInitEvents s.params := by
  obtain rfl := sInit_next h
  apply trace_eq_append
  simp [operate, runSteps, sInitSteps, drive, sInitEvents]

/-- The answer in the trace of a readByte is the one the block keeps as `r` (R152). -/
theorem sRead_trace {a : Addr} {s t : State} (h : exec (.sRead a) s = .next t) :
    t.trace = s.trace ++ sReadEvents s.params a t.answer := by
  obtain rfl := sRead_next h
  apply trace_eq_append
  simp [operate, runSteps, sReadSteps, sendAddress, requestByte, takeAnswer,
    sReadEvents, addressFrame]

theorem sWrite_trace {a : Addr} {x : Byte} {s t : State} (h : exec (.sWrite a x) s = .next t) :
    t.trace = s.trace ++ sWriteEvents s.params a x := by
  obtain rfl := sWrite_next h
  apply trace_eq_append
  simp [operate, runSteps, sWriteSteps, sendWrite, sWriteEvents, writeFrame]

/-- `S.DISABLE` stops the transport first where the flag says that it is started (R154). -/
theorem sDisable_trace {s t : State} (h : exec .sDisable s = .next t) :
    t.trace = s.trace ++ (if s.started then [.busEnd] else []) ++ sDisableEvents := by
  obtain rfl := sDisable_next h
  rw [List.append_assoc]
  apply trace_eq_append
  cases hstarted : s.started <;>
    simp [operate, runSteps, sDisableSteps, sDisableEvents, hstarted]

/-! ## The parallel operations -/

theorem pSetup_trace {s t : State} (h : exec .pSetup s = .next t) : t.trace = s.trace ++ pSetupEvents := by
  obtain rfl := pSetup_next h
  apply trace_eq_append
  simp [operate, runSteps, pSetupSteps, callPDisable, pDisableSteps, pSetupEvents,
    pDisableEvents]

theorem pInit_trace {s t : State} (h : exec .pInit s = .next t) : t.trace = s.trace ++ pInitEvents s.params := by
  obtain rfl := pInit_next h
  apply trace_eq_append
  simp [operate, runSteps, pInitSteps, drive, pInitEvents]

/-- Between the address latched with `OE` low and `OE` high again stand the eight levels sampled (R173). -/
theorem pRead_trace {a : Addr} {s t : State} (h : exec (.pRead a) s = .next t) :
    ∃ g : List Bool, g.length = 8 ∧ t.trace = s.trace ++ pReadEvents s.params a g := by
  have ht := pRead_next h
  obtain ⟨g, hlength, -, hlog, -, -⟩ := dataGet_sampled (readAfter 3 a s)
  have hbefore : (readAfter 3 a s).log =
      .delayUs s.params.constants.tParOeUs :: .set (.par .oe) false :: ((latchEvents a).reverse ++ s.log) := by
    simp [readAfter, runSteps, pReadSteps, latchAddr]
  have hafter : (readAfter 7 a s).log =
      .delayUs s.params.constants.tParOeOffUs :: .set (.par .oe) true :: (dataGet (readAfter 3 a s)).log := by
    simp [readAfter, runSteps, pReadSteps, latchAddr, takeSample]
  refine ⟨g, hlength, trace_eq_append ?_⟩
  rw [ht.trans (operate_pRead a s), finish_log, hafter, hlog, hbefore]
  simp [pReadEvents]

theorem pWrite_trace {a : Addr} {x : Byte} {s t : State} (h : exec (.pWrite a x) s = .next t) :
    t.trace = s.trace ++ pWriteEvents s.params a x := by
  have ht := pWrite_next h
  apply trace_eq_append
  simp [ht, operate, runSteps, pWriteSteps, latchAddr, pWriteEvents]

theorem pDisable_trace {s t : State} (h : exec .pDisable s = .next t) : t.trace = s.trace ++ pDisableEvents := by
  obtain rfl := pDisable_next h
  apply trace_eq_append
  simp [operate, runSteps, pDisableSteps, pDisableEvents]

/-! ## How many events -/

theorem pReadEvents_length (p : Params) (a : Addr) {g : List Bool} (h : g.length = 8) : (pReadEvents p a g).length = 61 := by
  have hlatch : (latchEvents a).length = 49 := rfl
  simp [pReadEvents, hlatch, h, dataLines]

/-- Settles O55: each trace is the list of events of its rule, whose length rests on the state for a serial disable alone. -/
theorem operationsIssueTheirEventCounts : Obligations.OperationsIssueTheirEventCounts := by
  intro s t
  refine ⟨fun h => ?_, fun h => ?_, fun a h => ?_, fun a x h => ?_, fun h => ?_, fun h => ?_, fun h => ?_, fun a h => ?_,
    fun a x h => ?_, fun h => ?_⟩
  · rw [sSetup_trace h, List.length_append]; rfl
  · rw [sInit_trace h, List.length_append]; rfl
  · rw [sRead_trace h, List.length_append]; rfl
  · rw [sWrite_trace h, List.length_append]; rfl
  · rw [sDisable_trace h, List.append_assoc, List.length_append]
    cases s.started <;> rfl
  · rw [pSetup_trace h, List.length_append]; rfl
  · rw [pInit_trace h, List.length_append]; rfl
  · obtain ⟨g, hlength, htrace⟩ := pRead_trace h
    rw [htrace, List.length_append, pReadEvents_length _ _ hlength]
  · rw [pWrite_trace h, List.length_append]; rfl
  · rw [pDisable_trace h, List.length_append]; rfl

end Sys2Proof.Machine
end

section
/-! The serial side of a block after each serial operation (spec/42_serial_driver.md R150 to R154), and the invariants that every
step of a serial block keeps (R157). -/

namespace Sys2Proof.Machine

/-! ## The flag, the lines, the transport and the answer, together -/

theorem serialSide_iff {s : State} {started : Bool} {lines : SerialLines} {bus : Transport} {answer : List Byte} :
    s.serialSide = (started, lines, bus, answer) ↔
      s.started = started ∧ s.serial = lines ∧ s.transport = bus ∧ s.answer = answer := by
  simp [State.serialSide]

@[simp] theorem stopTransport_transport (s : State) : (stopTransport s).transport =
    if s.started then { s.transport with on := false } else s.transport := by
  cases h : s.started <;> simp [stopTransport, h]

@[simp] theorem stopTransport_answer (s : State) : (stopTransport s).answer = s.answer := by
  cases h : s.started <;> simp [stopTransport, h]

@[simp] theorem floatSerial_answer (s : State) : (floatSerial s).answer = s.answer :=
  foldl_keeps State.answer _ (fun s l => pinModeSer_answer l .input s) _ s

/-- What `S.INIT` makes of the serial lines: select lines low, power and write-protect high, all outputs (R151). -/
def SerialLines.initialised (b : SerialLines) : SerialLines :=
  { b with
    a0 := ⟨.output, false⟩, a1 := ⟨.output, false⟩, a2 := ⟨.output, false⟩, pwr := ⟨.output, true⟩, wp := ⟨.output, true⟩ }

/-- A transport that was running is left so (R150). -/
theorem sSetup_serialSide {s t : State} (h : exec .sSetup s = .next t) :
    t.serialSide = (false, s.serial.disabled, s.transport, s.answer) := by
  obtain ⟨hserial, hstarted⟩ := sSetup_disabled h
  obtain rfl := sSetup_next h
  refine serialSide_iff.2 ⟨hstarted, hserial, ?_, ?_⟩ <;>
    simp [operate, runSteps, sSetupSteps, callSDisable, sDisableSteps]

theorem sInit_serialSide {s t : State} (h : exec .sInit s = .next t) :
    t.serialSide = (true, s.serial.initialised, ⟨true, s.params.constants.busRateHz, false⟩, s.answer) := by
  obtain rfl := sInit_next h
  simp [State.serialSide, operate, runSteps, sInitSteps, drive, SerialLines.set,
    SerialLines.get, SerialLines.initialised]

/-- The request of a readByte frees the bus, and its answer is kept (R119, R152). -/
theorem sRead_serialSide {a : Addr} {s t : State} (h : exec (.sRead a) s = .next t) :
    t.serialSide = (s.started, s.serial, { s.transport with held := false }, t.answer) := by
  obtain rfl := sRead_next h
  simp [State.serialSide, operate, runSteps, sReadSteps, sendAddress, requestByte,
    takeAnswer]

/-- The write frame of a writeByte frees the bus, and write-protect ends high (R118, R153). -/
theorem sWrite_serialSide {a : Addr} {x : Byte} {s t : State} (h : exec (.sWrite a x) s = .next t) :
    t.serialSide = (s.started, { s.serial with wp := ⟨s.serial.wp.dir, true⟩ }, { s.transport with held := false }, s.answer) := by
  obtain rfl := sWrite_next h
  simp [State.serialSide, operate, runSteps, sWriteSteps, sendWrite,
    SerialLines.set, SerialLines.get]

/-- A transport is stopped where the flag says that it is started, and not touched else (R154). -/
theorem sDisable_serialSide {s t : State} (h : exec .sDisable s = .next t) : t.serialSide =
    (false, s.serial.disabled, if s.started then { s.transport with on := false } else s.transport, s.answer) := by
  obtain ⟨hserial, hstarted⟩ := sDisable_disabled h
  obtain rfl := sDisable_next h
  refine serialSide_iff.2 ⟨hstarted, hserial, ?_, ?_⟩ <;>
    simp [operate, runSteps, sDisableSteps]

/-! ## The invariants between operations (R157) -/

/-- Write-protect is not driven low, nor a select line high (R157 (a), (e)). -/
structure SerialLines.Safe (b : SerialLines) : Prop where
  wp : b.wp.onlyDriven true = true
  a0 : b.a0.onlyDriven false = true
  a1 : b.a1.onlyDriven false = true
  a2 : b.a2.onlyDriven false = true

theorem serialOk_iff {s : State} : s.serialOk = true ↔
    (s.started = true → s.transport.on = true) ∧ s.transport.held = false ∧ s.serial.Safe := by
  simp only [State.serialOk, Bool.and_eq_true, Bool.or_eq_true, Bool.not_eq_true']
  constructor
  · rintro ⟨⟨⟨⟨⟨hbus, hheld⟩, hwp⟩, h0⟩, h1⟩, h2⟩
    exact ⟨fun hs => hbus.resolve_left (by simp [hs]), hheld, hwp, h0, h1, h2⟩
  · rintro ⟨hbus, hheld, hwp, h0, h1, h2⟩
    cases hs : s.started with
    | false => exact ⟨⟨⟨⟨⟨.inl rfl, hheld⟩, hwp⟩, h0⟩, h1⟩, h2⟩
    | true => exact ⟨⟨⟨⟨⟨.inr (hbus hs), hheld⟩, hwp⟩, h0⟩, h1⟩, h2⟩

theorem safe_disabled (b : SerialLines) : b.disabled.Safe := ⟨rfl, rfl, rfl, rfl⟩

theorem safe_initialised (b : SerialLines) : b.initialised.Safe := ⟨rfl, rfl, rfl, rfl⟩

/-- Write-protect set high is safe whether or not it is driven. -/
theorem SerialLines.Safe.protect {b : SerialLines} (h : b.Safe) : { b with wp := ⟨b.wp.dir, true⟩ : SerialLines }.Safe :=
  ⟨by simp [LineReg.onlyDriven], h.a0, h.a1, h.a2⟩

/-- Setup gives the invariants where the bus is free, whatever the lines and the flag were (R150). -/
theorem sSetup_serialOk {s t : State} (h : exec .sSetup s = .next t) (hheld : s.transport.held = false) : t.serialOk = true := by
  obtain ⟨hstarted, hserial, hbus, -⟩ := serialSide_iff.1 (sSetup_serialSide h)
  exact serialOk_iff.2 ⟨by simp [hstarted], hbus ▸ hheld, hserial ▸ safe_disabled _⟩

/-- Each of the five serial operations keeps the invariants. -/
theorem serialOk_exec {i : Instr} {s t : State} (hi : i.variant = .serial) (h : exec i s = .next t) (hs : s.serialOk = true) :
    t.serialOk = true := by
  obtain ⟨hrun, hheld, hsafe⟩ := serialOk_iff.1 hs
  cases i with
  | sSetup => exact sSetup_serialOk h hheld
  | sInit =>
    obtain ⟨-, hserial, hbus, -⟩ := serialSide_iff.1 (sInit_serialSide h)
    exact serialOk_iff.2 ⟨by simp [hbus], by simp [hbus], hserial ▸ safe_initialised _⟩
  | sRead a =>
    obtain ⟨hstarted, hserial, hbus, -⟩ := serialSide_iff.1 (sRead_serialSide h)
    exact serialOk_iff.2 ⟨by simpa [hbus, hstarted] using hrun, by simp [hbus], hserial ▸ hsafe⟩
  | sWrite a x =>
    obtain ⟨hstarted, hserial, hbus, -⟩ := serialSide_iff.1 (sWrite_serialSide h)
    exact serialOk_iff.2 ⟨by simpa [hbus, hstarted] using hrun, by simp [hbus], hserial ▸ hsafe.protect⟩
  | sDisable =>
    obtain ⟨hstarted, hserial, hbus, -⟩ := serialSide_iff.1 (sDisable_serialSide h)
    refine serialOk_iff.2 ⟨by simp [hstarted], ?_, hserial ▸ safe_disabled _⟩
    rw [hbus]
    split <;> exact hheld
  | pSetup | pInit | pRead | pWrite | pDisable => cases hi

/-- An idle block that goes on either waits or has run an instruction of its variant on the state without the word (R137). -/
theorem step_idle_next {s t : State} (hidle : s.seq = .idle) (h : step s = .next t) :
    t = s ∨ ∃ i rest, i.variant = s.params.variant ∧ exec i { s with host := rest } = .next t := by
  cases hhost : s.host with
  | nil =>
    rw [step_idle_noHost hidle hhost] at h
    exact .inl (Host.Outcome.next.inj h).symm
  | cons w rest =>
    rw [step_idle_host hidle hhost] at h
    cases hdecode : decode s.params.variant w with
    | error e => rw [present_error hdecode] at h; cases h
    | ok i =>
      rw [present_ok hdecode] at h
      exact .inr ⟨i, rest, (exec_next h).1.symm, h⟩

/-- Settles O35: an idle serial block waits or runs one of the five serial operations, and each leaves the invariants. -/
theorem serialInvariantIsKept : Obligations.SerialInvariantIsKept := by
  intro s t hv hidle hok hstep
  obtain rfl | ⟨i, rest, hi, hexec⟩ := step_idle_next hidle hstep
  · exact ⟨hidle, hok⟩
  · obtain ⟨hseq, -⟩ := exec_next_completed hexec
    exact ⟨hseq, serialOk_exec (s := { s with host := rest }) (hi.trans hv) hexec hok⟩

/-- Settles O60: setup runs from any state of a serial block, and leaves the bus as free as it was. -/
theorem serialSetupEstablishesInvariant : Obligations.SerialSetupEstablishesInvariant := by
  intro s hv hheld
  have h := exec_sSetup hv
  obtain ⟨hseq, -⟩ := exec_next_completed h
  exact ⟨_, h, hseq, sSetup_serialOk h hheld⟩

end Sys2Proof.Machine
end

section
/-! The serial operations as the rules state them (spec/42_serial_driver.md R150 to R154, R157 (b)): the end state, the trace and
the frame of each. -/

namespace Sys2Proof.Machine

/-! ## Setup, init and disable (R150, R151, R154) -/

theorem disabledS_of_disabled {s : State} {b : SerialLines} (hstarted : s.started = false) (hserial : s.serial = b.disabled) :
    s.disabledS = true := by
  simp [State.disabledS, hstarted, hserial, SerialLines.disabled]

theorem activeS_of_initialised {s : State} {b : SerialLines} (hstarted : s.started = true) (hserial : s.serial = b.initialised) :
    s.activeS = true := by
  simp [State.activeS, hstarted, hserial, SerialLines.initialised]

/-- Of the latches a disable writes those of `WP` and `PWR` only (R154). -/
theorem latches_of_disabled {s : State} {b : SerialLines} (hserial : s.serial = b.disabled) : s.serial.a0.lat = b.a0.lat
    ∧ s.serial.a1.lat = b.a1.lat ∧ s.serial.a2.lat = b.a2.lat ∧ s.serial.bclk.lat = b.bclk.lat
    ∧ s.serial.bdat.lat = b.bdat.lat := by
  rw [hserial]
  exact ⟨rfl, rfl, rfl, rfl, rfl⟩

/-- Disabling lines that are disabled changes none of them. -/
theorem disabled_disabled (b : SerialLines) : b.disabled.disabled = b.disabled := rfl

/-- Settles O22: the flag is cleared first, so no refusal can follow, and the disable leaves the lines floating. -/
theorem serialSetupReachesDisabled : Obligations.SerialSetupReachesDisabled := by
  intro s hv
  have h := exec_sSetup hv
  obtain ⟨hstarted, hserial, hbus, hanswer⟩ := serialSide_iff.1 (sSetup_serialSide h)
  obtain ⟨h0, h1, h2, hclk, hdat⟩ := latches_of_disabled hserial
  exact ⟨_, h, disabledS_of_disabled hstarted hserial, hstarted, h0, h1, h2, hclk, hdat, sSetup_trace h, hbus, hanswer,
    exec_next_sameRegs h rfl nofun, exec_next_sameParallelSide h rfl, exec_next_sameMem h rfl nofun nofun, exec_next_completed h⟩

/-- Settles O23: the lines, the flag and the transport are those that init writes, whatever they were. -/
theorem serialInitReachesActive : Obligations.SerialInitReachesActive := by
  intro s hv
  have h := exec_sInit hv
  obtain ⟨hstarted, hserial, hbus, hanswer⟩ := serialSide_iff.1 (sInit_serialSide h)
  exact ⟨_, h, activeS_of_initialised hstarted hserial, hstarted, hbus, fun hgiven => by rw [hbus, hgiven]; rfl,
    by rw [hserial]; rfl, by rw [hserial]; rfl, sInit_trace h, hanswer, exec_next_sameRegs h rfl nofun,
    exec_next_sameParallelSide h rfl, exec_next_sameMem h rfl nofun nofun, exec_next_completed h⟩

/-- Settles O30: the disable runs where it stops no transport that is not started, and then as in a setup. -/
theorem serialDisableReachesDisabled : Obligations.SerialDisableReachesDisabled := by
  intro s hv hsafe
  have h := exec_sDisable hv hsafe
  obtain ⟨hstarted, hserial, hbus, hanswer⟩ := serialSide_iff.1 (sDisable_serialSide h)
  obtain ⟨h0, h1, h2, hclk, hdat⟩ := latches_of_disabled hserial
  exact ⟨_, h, disabledS_of_disabled hstarted hserial, hstarted, sDisable_trace h, hbus, h0, h1, h2, hclk, hdat, hanswer,
    exec_next_sameRegs h rfl nofun, exec_next_sameParallelSide h rfl, exec_next_sameMem h rfl nofun nofun, exec_next_completed h⟩

/-- Settles O31: the first disable clears the flag, so the second is safe, stops nothing, and finds the lines disabled. -/
theorem serialDisableTwiceIsOnce : Obligations.SerialDisableTwiceIsOnce := by
  intro s t h
  obtain ⟨hstarted, hserial, -, -⟩ := serialSide_iff.1 (sDisable_serialSide h)
  obtain ⟨hv, -, -⟩ := exec_next h
  have h' := exec_sDisable (s := t) (exec_next_params h ▸ hv) (by simp [State.unsafeShutdown, hstarted])
  obtain ⟨hstarted', hserial', hbus', -⟩ := serialSide_iff.1 (sDisable_serialSide h')
  have htrace := sDisable_trace h'
  simp only [hstarted, Bool.false_eq_true, if_false, List.append_nil] at hbus' htrace
  exact ⟨_, h', by rw [hserial', hserial, disabled_disabled], hstarted'.trans hstarted.symm, hbus', htrace,
    exec_next_sameMem h' rfl nofun nofun⟩

/-! ## readByte (R152) -/

/-- `s` under `S.READ` when the address frame is out (R152 step 1). -/
def afterAddress (a : Addr) (s : State) : State :=
  busWrite (devAddr s.params) (addressFrame a) false (accept .read (setAddr a s))

/-- The answer kept is that of the bus request (R152 step 2). -/
theorem sRead_answer {a : Addr} {s t : State} (h : exec (.sRead a) s = .next t) :
    t.answer = (afterAddress a s).requestAnswer (devAddr s.params) := by
  obtain rfl := sRead_next h
  simp [operate, runSteps, sReadSteps, sendAddress, requestByte, takeAnswer,
    afterAddress]

/-- Where the phase makes the result defined, it is the first byte of the answer, the sentinel for none (R152 step 3). -/
theorem sRead_rdata {a : Addr} {s t : State} (h : exec (.sRead a) s = .next t) (hd : s.resultsDefined = true) :
    t.rdata = t.answer.headD s.params.constants.readSentinel := by
  obtain rfl := sRead_next h
  simp [operate, runSteps, sReadSteps, sendAddress, requestByte, takeAnswer,
    setRdata, hd]

/-- There the chip has seen the address frame and the request, and nothing else. -/
theorem sRead_chip {a : Addr} {s t : State} (h : exec (.sRead a) s = .next t) (hd : s.resultsDefined = true) :
    t.chip = (busRequest (devAddr s.params) (atSeq (.running .read 2) (afterAddress a s))).chip := by
  obtain rfl := sRead_next h
  simp [operate, runSteps, sReadSteps, sendAddress, requestByte, takeAnswer,
    afterAddress, finish, hd]

/-- Settles O24: a readByte is refused for its transport alone, and `r` is the answer that the block keeps. -/
theorem serialReadRunsOnStartedTransport : Obligations.SerialReadRunsOnStartedTransport := by
  intro a s hv
  refine ⟨fun hoff => exec_refused hv ((stopAt_bus hv (.inl rfl)).trans (by rw [hoff]; rfl)), fun hon => ?_⟩
  have h := exec_sRead (a := a) hv hon
  obtain ⟨hstarted, hserial, hbus, -⟩ := serialSide_iff.1 (sRead_serialSide h)
  obtain ⟨haddr, hwdata⟩ := exec_next_operands h
  exact ⟨_, _, h, sRead_trace h, sRead_answer h ▸ requestAnswer_length _ _,
    fun hd => ⟨sRead_rdata h hd, exec_next_sameMem h rfl nofun fun _ => hd⟩, haddr, hwdata, hstarted, hserial, hbus,
    exec_next_sameParallelSide h rfl, exec_next_completed h⟩

/-- A request at a responding chip advances its pointer and does nothing else there (R70). -/
theorem busRequest_chip_responds {dev : DevAddr} {s : State} (h : s.responds dev = true) :
    (busRequest dev s).chip = { s.chip with ptr := (s.chip.ptr + 1) % 2 ^ s.params.addrBits } := by
  simp [busRequest, h]

/-- In the Active phase a responding chip takes the address, and responds to the request too (R68, R70). -/
theorem afterAddress_responds {s : State} (a : Addr) (hactive : s.activeS = true) (hon : s.transport.on = true)
    (hr : s.responds (devAddr s.params) = true) : (afterAddress a s).responds (devAddr s.params) = true
      ∧ (afterAddress a s).chip = { s.chip with ptr := cell s.params a } := by
  obtain ⟨hpresent, hpast⟩ := responds_present hr
  have hchip : (afterAddress a s).chip = { s.chip with ptr := cell s.params a } :=
    busWrite_address_chip (s := accept .read (setAddr a s)) hr a false
  have hparams : (afterAddress a s).params = s.params := by simp [afterAddress]
  have hactive' : (afterAddress a s).activeS = true :=
    (activeS_congr (by simp [afterAddress]) (by simp [afterAddress])).trans hactive
  have hnow : s.now ≤ (afterAddress a s).now := (busWrite_records _ _ _ (accept .read (setAddr a s))).now
  refine ⟨?_, hchip⟩
  rw [← hparams, responds_eq_deadlinesPast hactive' (by simp [afterAddress, hon]) (hparams ▸ hpresent)]
  exact deadlinesPast_later hpast (by rw [hchip]) (by rw [hchip]; exact (deadlinesPast_wbusy hpast).trans hnow) hnow

/-- Settles O25: the address frame sets the pointer of the chip, and the request returns the byte there and advances it. -/
theorem serialReadReturnsTheStoredByte : Obligations.SerialReadReturnsTheStoredByte := by
  intro a s hv hd hr
  obtain ⟨hactive, hon⟩ := (resultsDefined_serial hv).1 hd
  have h := exec_sRead (a := a) hv hon
  obtain ⟨hresponds, hchip⟩ := afterAddress_responds a hactive hon hr
  have hanswer := sRead_answer h
  rw [requestAnswer_responds hresponds, hchip] at hanswer
  have htrace := sRead_trace h
  have hend := sRead_chip h hd
  rw [busRequest_chip_responds (by simpa using hresponds), atSeq_chip, hchip] at hend
  obtain ⟨-, hserial, -, -⟩ := serialSide_iff.1 (sRead_serialSide h)
  exact ⟨_, h, by rw [sRead_rdata h hd, hanswer]; rfl, by rw [htrace, hanswer]; rfl, by rw [hend]; simp [afterAddress],
    exec_next_sameMem h rfl nofun fun _ => hd, hserial⟩

/-! ## writeByte (R153) -/

/-- A writeByte takes at least its three delays (R113, R115, R153). -/
theorem sWrite_now_le {a : Addr} {x : Byte} {s t : State} (h : exec (.sWrite a x) s = .next t) :
    s.now + s.params.constants.tSerWpUs + s.params.constants.tSerWriteMs * 1000 + s.params.constants.tSerProtectMs * 1000
      ≤ t.now := by
  obtain rfl := sWrite_next h
  simp [operate, runSteps, sWriteSteps, sendWrite]
  omega

/-- In the Active phase a writeByte changes no cell but the one its address names (R69, R153). -/
theorem sWrite_sameMemExcept {a : Addr} {x : Byte} {s t : State} (h : exec (.sWrite a x) s = .next t)
    (hd : s.resultsDefined = true) : SameMemExcept a s t := by
  obtain ⟨hv, -, -⟩ := exec_next h
  have hw := beforeFrame_released a x ((resultsDefined_serial hv).1 hd).1
  obtain ⟨t', u, h', hu, hchip, -, hparams, -⟩ := sWrite_active a x hv hd
  obtain rfl : t = t' := Host.Outcome.next.inj (h.symm.trans h')
  intro b hb
  have hframe := busWrite_write_other (dev := devAddr s.params) (a := a) (b := b) (s := beforeFrame a x s)
    (by rwa [hw.params]) x true
  calc t.memRead b = u.memRead b := by rw [State.memRead, State.memRead, hchip, hparams, hu, busWrite_params, hw.params]
    _ = (beforeFrame a x s).memRead b := by rw [hu, hframe]
    _ = s.memRead b := by rw [State.memRead, State.memRead, hw.chip, hw.params]

/-- Settles O27: a writeByte is refused for its transport alone, and of the lines it leaves only the latch of `WP` changed. -/
theorem serialWriteRunsOnStartedTransport : Obligations.SerialWriteRunsOnStartedTransport := by
  intro a x s hv
  refine ⟨fun hoff => exec_refused hv ((stopAt_bus hv (.inr rfl)).trans (by rw [hoff]; rfl)), fun hon => ?_⟩
  have h := exec_sWrite (a := a) (x := x) hv hon
  obtain ⟨hstarted, hserial, hbus, hanswer⟩ := serialSide_iff.1 (sWrite_serialSide h)
  obtain ⟨haddr, hwdata⟩ := exec_next_operands h
  have hnow := sWrite_now_le h
  refine ⟨_, h, sWrite_trace h, hserial, hnow, fun hgiven => ?_, haddr, hwdata, exec_next_rdata h nofun, hstarted, hanswer, hbus,
    sWrite_sameMemExcept h, exec_next_sameParallelSide h rfl, exec_next_completed h⟩
  obtain ⟨hwp, hwrite, hprotect, -⟩ := given_delays hgiven
  omega

/-- Settles O28: the write frame finds write-protect released and the chip responding, and nothing after it touches the array. -/
theorem serialWriteStoresTheByte : Obligations.SerialWriteStoresTheByte := by
  intro a x s hv hd hsound hr
  obtain ⟨hactive, hon⟩ := (resultsDefined_serial hv).1 hd
  obtain ⟨hcells, -⟩ := sound_iff.1 hsound
  have hw := beforeFrame_released a x hactive
  obtain ⟨t, u, h, hu, hchip, -, hparams, hstarted, -, -, hserial⟩ := sWrite_active a x hv hd
  have hframe := busWrite_write_chip (hw.responds hactive hon hr) (by rw [hw.serial]) a x true
  rw [← hu, ← hchip, hw.chip, hw.params] at hframe
  obtain ⟨hsame, hother⟩ := stored_of_mem hcells hparams (congrArg Chip.mem hframe)
  exact ⟨t, h, hsame, hother, congrArg Chip.ptr hframe, hserial, (activeS_congr hstarted hserial).trans hactive⟩

/-! ## Data frames (R157 (b)) -/

/-- What R157 (b) asks of an event of the instruction `i` that is issued with the lines at `b`. -/
def FrameAllowed (i : Instr) (b : SerialLines) (e : Event) : Prop :=
  (∀ dev b0 b1 b2 stop, e = .busWrite dev [b0, b1, b2] stop → b.wp.lat = false)
    ∧ ((∃ dev b0 b1 stop, e = .busWrite dev [b0, b1] stop) ∨ (∃ dev m stop r, e = .busRequest dev m stop r) →
      ∃ a, i = .sRead a)

/-- The event is a bus transaction (R118, R119). -/
def Event.transacts : Event → Bool
  | .busWrite _ _ _ | .busRequest _ _ _ _ => true
  | .mode _ _ | .set _ _ | .get _ _ | .delayUs _ | .delayMs _ | .busBegin _ | .busEnd => false

/-- Of an event that is no bus transaction nothing is asked. -/
theorem frameAllowed_of_quiet {e : Event} (h : e.transacts = false) (i : Instr) (b : SerialLines) : FrameAllowed i b e := by
  refine ⟨?_, ?_⟩
  · rintro dev b0 b1 b2 stop rfl
    cases h
  · rintro (⟨dev, b0, b1, stop, rfl⟩ | ⟨dev, m, stop, r, rfl⟩) <;> cases h

/-- Nor of any event of a list without one. -/
theorem frameAllowed_of_all_quiet {evs : List Event} (h : ∀ e ∈ evs, e.transacts = false) {n : Nat} {e : Event}
    (he : evs[n]? = some e) (i : Instr) (b : SerialLines) : FrameAllowed i b e :=
  frameAllowed_of_quiet (h e (List.mem_of_getElem? he)) i b

theorem sDisableEvents_quiet : ∀ e ∈ sDisableEvents, e.transacts = false := by decide

theorem sInitEvents_quiet (p : Params) : ∀ e ∈ sInitEvents p, e.transacts = false := by
  simp [sInitEvents, Event.transacts]

/-- A readByte sends no data byte (R152). -/
theorem sReadEvents_allowed (p : Params) (a : Addr) (r : List Byte) {n : Nat} {e : Event}
    (he : (sReadEvents p a r)[n]? = some e) (b : SerialLines) : FrameAllowed (.sRead a) b e := by
  refine ⟨?_, fun _ => ⟨a, rfl⟩⟩
  rintro dev b0 b1 b2 stop rfl
  have hmem := List.mem_of_getElem? he
  simp [sReadEvents] at hmem

/-- The only transaction of a writeByte is its write frame, which goes out with write-protect released (R153 steps 1 and 3). -/
theorem sWriteEvents_allowed (p : Params) (a : Addr) (x : Byte) (b : SerialLines) {n : Nat} {e : Event}
    (he : (sWriteEvents p a x)[n]? = some e) (i : Instr) :
    FrameAllowed i (serialAfter b ((sWriteEvents p a x).take n)) e := by
  match n, he with
  | 0, he => exact frameAllowed_of_quiet (Option.some.inj he ▸ rfl) i _
  | 1, he => exact frameAllowed_of_quiet (Option.some.inj he ▸ rfl) i _
  | 2, he =>
    obtain rfl := Option.some.inj he
    exact ⟨fun _ _ _ _ _ _ => rfl, by simp⟩
  | 3, he => exact frameAllowed_of_quiet (Option.some.inj he ▸ rfl) i _
  | 4, he => exact frameAllowed_of_quiet (Option.some.inj he ▸ rfl) i _
  | 5, he => exact frameAllowed_of_quiet (Option.some.inj he ▸ rfl) i _
  | _ + 6, he => cases he

/-- The events of an instruction are those by which its trace has grown. -/
theorem events_eq {s t : State} {evs evs' : List Event} (h : t.trace = s.trace ++ evs) (h' : t.trace = s.trace ++ evs') :
    evs = evs' := List.append_cancel_left (h.symm.trans h')

/-- Settles O34: setup, init and disable issue no transaction, a readByte no data frame, a writeByte its one frame. -/
theorem dataFramesOnlyWithProtectReleased : Obligations.DataFramesOnlyWithProtectReleased := by
  intro i s t evs hi h htrace n e he
  show FrameAllowed i (serialAfter s.serial (evs.take n)) e
  cases i with
  | sSetup =>
    obtain rfl := events_eq htrace (sSetup_trace h)
    exact frameAllowed_of_all_quiet sDisableEvents_quiet he _ _
  | sInit =>
    obtain rfl := events_eq htrace (sInit_trace h)
    exact frameAllowed_of_all_quiet (sInitEvents_quiet _) he _ _
  | sRead a =>
    obtain rfl := events_eq htrace (sRead_trace h)
    exact sReadEvents_allowed _ _ _ he _
  | sWrite a x =>
    obtain rfl := events_eq htrace (sWrite_trace h)
    exact sWriteEvents_allowed _ _ _ _ he _
  | sDisable =>
    obtain rfl := events_eq htrace ((sDisable_trace h).trans (List.append_assoc _ _ _))
    refine frameAllowed_of_all_quiet (fun e he => ?_) he _ _
    rcases List.mem_append.1 he with he | he
    · cases hs : s.started <;> simp [hs] at he
      rw [he, Event.transacts]
    · exact sDisableEvents_quiet e he
  | pSetup | pInit | pRead | pWrite | pDisable => cases hi

end Sys2Proof.Machine
end

section
/-! The lines of a parallel block after each parallel operation (spec/43_parallel_driver.md R171 to R175), and the invariants that
every step of it keeps (R181). -/

namespace Sys2Proof.Machine

/-! ## What each operation makes of the lines -/

/-- What `Latch(a)` makes of the parallel lines (R170). -/
def ParallelLines.latched (a : Addr) (b : ParallelLines) : ParallelLines :=
  { b with shclk := ⟨b.shclk.dir, false⟩, shdat := ⟨b.shdat.dir, a.getLsbD 0⟩ }

/-- What `P.INIT` makes of the parallel lines (R172). -/
def ParallelLines.initialised (b : ParallelLines) : ParallelLines :=
  { b with pwren := ⟨b.pwren.dir, false⟩, we := ⟨.output, true⟩, oe := ⟨.output, true⟩, shen := ⟨b.shen.dir, true⟩ }

/-- What `P.READ` makes of the parallel lines (R173). -/
def ParallelLines.afterRead (a : Addr) (b : ParallelLines) : ParallelLines :=
  { b.latched a with oe := ⟨b.oe.dir, true⟩ }

/-- What `P.WRITE` makes of the parallel lines (R174). -/
def ParallelLines.afterWrite (a : Addr) (x : Byte) (b : ParallelLines) : ParallelLines :=
  { b.latched a with
    d0 := ⟨.input, x.getLsbD 0⟩, d1 := ⟨.input, x.getLsbD 1⟩, d2 := ⟨.input, x.getLsbD 2⟩
    d3 := ⟨.input, x.getLsbD 3⟩, d4 := ⟨.input, x.getLsbD 4⟩, d5 := ⟨.input, x.getLsbD 5⟩
    d6 := ⟨.input, x.getLsbD 6⟩, d7 := ⟨.input, x.getLsbD 7⟩
    we := ⟨b.we.dir, true⟩ }

theorem pInit_parallel {s t : State} (h : exec .pInit s = .next t) : t.parallel = s.parallel.initialised := by
  obtain rfl := pInit_next h
  simp [operate, runSteps, pInitSteps, drive, ParallelLines.set, ParallelLines.get, ParallelLines.initialised]

theorem pRead_parallel {a : Addr} {s t : State} (h : exec (.pRead a) s = .next t) :
    t.parallel = s.parallel.afterRead a := by
  have ht := pRead_next h
  simp [ht, operate, runSteps, pReadSteps, latchAddr, takeSample, ParallelLines.set, ParallelLines.get, ParallelLines.afterRead,
    ParallelLines.latched]

theorem pWrite_parallel {a : Addr} {x : Byte} {s t : State} (h : exec (.pWrite a x) s = .next t) :
    t.parallel = s.parallel.afterWrite a x := by
  have ht := pWrite_next h
  simp [ht, operate, runSteps, pWriteSteps, latchAddr, ParallelLines.set, ParallelLines.get, ParallelLines.afterWrite,
    ParallelLines.latched]

/-! ## The invariants between operations (R181) -/

/-- The lines between operations, once setup has run: its four lines are outputs, the data lines inputs, and of the control lines
none is driven low, nor `WE` driven without power (R171, R181 (a), (b), (f), R225). -/
structure LinesOk (b : ParallelLines) : Prop where
  pwren : b.pwren.dir = .output
  shen : b.shen.dir = .output
  shclk : b.shclk.dir = .output
  shdat : b.shdat.dir = .output
  data : b.dataAll .input = true
  we : b.we.dir = .input ∨ b.we.lat = true ∧ b.pwren.lat = false
  oe : b.oe.dir = .input ∨ b.oe.lat = true

theorem ok_iff {b : ParallelLines} : b.ok = true ↔ LinesOk b := by
  simp only [ParallelLines.ok, LineReg.onlyDriven, Bool.and_eq_true, Bool.or_eq_true, decide_eq_true_eq, Bool.not_eq_true']
  exact ⟨fun ⟨⟨⟨⟨⟨⟨hp, he⟩, hc⟩, hs⟩, hd⟩, hw⟩, ho⟩ => ⟨hp, he, hc, hs, hd, hw, ho⟩,
    fun ⟨hp, he, hc, hs, hd, hw, ho⟩ => ⟨⟨⟨⟨⟨⟨hp, he⟩, hc⟩, hs⟩, hd⟩, hw⟩, ho⟩⟩

/-- Where the four lines of setup are outputs, disabling gives the invariants, whatever the other lines were. -/
theorem linesOk_disabled {b : ParallelLines} (hpwren : b.pwren.dir = .output) (hshen : b.shen.dir = .output)
    (hshclk : b.shclk.dir = .output) (hshdat : b.shdat.dir = .output) : LinesOk b.disabled :=
  ⟨hpwren, hshen, hshclk, hshdat, rfl, .inl rfl, .inl rfl⟩

theorem linesOk_setupDriven_disabled (b : ParallelLines) : LinesOk b.setupDriven.disabled :=
  linesOk_disabled rfl rfl rfl rfl

theorem LinesOk.disabled {b : ParallelLines} (h : LinesOk b) : LinesOk b.disabled :=
  linesOk_disabled h.pwren h.shen h.shclk h.shdat

theorem LinesOk.initialised {b : ParallelLines} (h : LinesOk b) : LinesOk b.initialised :=
  ⟨h.pwren, h.shen, h.shclk, h.shdat, h.data, .inr ⟨rfl, rfl⟩, .inr rfl⟩

theorem LinesOk.afterRead {b : ParallelLines} (h : LinesOk b) (a : Addr) : LinesOk (b.afterRead a) :=
  ⟨h.pwren, h.shen, h.shclk, h.shdat, h.data, h.we, .inr rfl⟩

theorem LinesOk.afterWrite {b : ParallelLines} (h : LinesOk b) (a : Addr) (x : Byte) : LinesOk (b.afterWrite a x) :=
  ⟨h.pwren, h.shen, h.shclk, h.shdat, rfl, h.we.imp_right fun ⟨_, hpower⟩ => ⟨rfl, hpower⟩, h.oe⟩

/-- Each of the five parallel operations keeps the invariants. -/
theorem linesOk_exec {i : Instr} {s t : State} (hi : i.variant = .parallel) (h : exec i s = .next t)
    (hok : LinesOk s.parallel) : LinesOk t.parallel := by
  cases i with
  | pSetup => exact pSetup_parallel h ▸ linesOk_setupDriven_disabled _
  | pInit => exact pInit_parallel h ▸ hok.initialised
  | pRead a => exact pRead_parallel h ▸ hok.afterRead a
  | pWrite a x => exact pWrite_parallel h ▸ hok.afterWrite a x
  | pDisable => exact pDisable_parallel h ▸ hok.disabled
  | sSetup | sInit | sRead | sWrite | sDisable => cases hi

/-- Settles O48: an idle parallel block waits or runs one of the five parallel operations, and each leaves the invariants. -/
theorem parallelInvariantIsKept : Obligations.ParallelInvariantIsKept := by
  intro s t hv hidle hok hstep
  obtain rfl | ⟨i, rest, hi, hexec⟩ := step_idle_next hidle hstep
  · exact ⟨hidle, hok⟩
  · obtain ⟨hseq, -⟩ := exec_next_completed hexec
    exact ⟨hseq, ok_iff.2 (linesOk_exec (s := { s with host := rest }) (hi.trans hv) hexec (ok_iff.1 hok))⟩

/-- Settles O49: setup runs from any state of a parallel block, makes its lines outputs and disables the rest. -/
theorem parallelSetupEstablishesInvariant : Obligations.ParallelSetupEstablishesInvariant := by
  intro s hv
  have h := exec_pSetup hv
  obtain ⟨hseq, -⟩ := exec_next_completed h
  exact ⟨_, h, hseq, ok_iff.2 (pSetup_parallel h ▸ linesOk_setupDriven_disabled _)⟩

end Sys2Proof.Machine
end

section
/-! Every point of a parallel operation (spec/43_parallel_driver.md R181 (a), (d), 41_eepromio_contract.md R141 P4): what holds of
the lines at the start of a stretch of events, and is kept by each of them, holds all along it. -/

namespace Sys2Proof.Machine

/-! ## Safe lines, and stretches of safe points -/

/-- No contention on the data bus, `WE` and `OE` not both low, `WE` not low without power (R181 (a), (d), R141 P4). -/
structure LinesSafe (b : ParallelLines) : Prop where
  bus : b.oe.drive = .low → b.dataAll .input = true
  control : b.we.drive = .low → b.oe.drive ≠ .low ∧ b.powered = true

theorem linesSafe_iff {b : ParallelLines} : LinesSafe b ↔ b.busSafe = true ∧ b.controlSafe = true := by
  have hbus : b.busSafe = true ↔ (b.oe.drive = .low → b.dataAll .input = true) := by
    simp [ParallelLines.busSafe, imp_iff_not_or]
  have hcontrol : b.controlSafe = true ↔ (b.we.drive = .low → b.oe.drive ≠ .low ∧ b.powered = true) := by
    simp [ParallelLines.controlSafe, imp_iff_not_or]
  rw [hbus, hcontrol]
  exact ⟨fun ⟨h1, h2⟩ => ⟨h1, h2⟩, fun ⟨h1, h2⟩ => ⟨h1, h2⟩⟩

/-- The lines are safe at every point of a stretch of events that begins with them at `b`. -/
def SafeAlong (b : ParallelLines) (evs : List Event) : Prop := ∀ n, LinesSafe (parallelAfter b (evs.take n))

theorem safeAlong_cons {b : ParallelLines} {e : Event} {evs : List Event} (hb : LinesSafe b)
    (h : SafeAlong (parallelEvent b e) evs) : SafeAlong b (e :: evs)
  | 0 => hb
  | n + 1 => h n

/-- `P` holds of the lines after each event that it held before. -/
def KeptBy (P : ParallelLines → Prop) (evs : List Event) : Prop := ∀ e ∈ evs, ∀ b, P b → P (parallelEvent b e)

theorem keptBy_append {P : ParallelLines → Prop} {evs evs' : List Event} (h : KeptBy P evs) (h' : KeptBy P evs') :
    KeptBy P (evs ++ evs') := fun e he => (List.mem_append.1 he).elim (h e) (h' e)

theorem KeptBy.after {P : ParallelLines → Prop} {evs : List Event} (h : KeptBy P evs) {b : ParallelLines} (hb : P b) :
    P (parallelAfter b evs) := by
  induction evs generalizing b with
  | nil => exact hb
  | cons e evs ih => exact ih (fun e he => h e (List.mem_cons_of_mem _ he)) (h e List.mem_cons_self b hb)

/-- What makes the lines safe and is kept by each event of a stretch makes them safe all along it. -/
theorem KeptBy.safeAlong {P : ParallelLines → Prop} {evs : List Event} (h : KeptBy P evs) (hsafe : ∀ b, P b → LinesSafe b)
    {b : ParallelLines} (hb : P b) : SafeAlong b evs := fun _ =>
  hsafe _ (KeptBy.after (fun e he => h e (List.mem_of_mem_take he)) hb)

/-! ## The three reasons why lines are safe -/

/-- Neither `WE` nor `OE` is driven low. -/
structure Quiet (b : ParallelLines) : Prop where
  we : b.we.drive ≠ .low
  oe : b.oe.drive ≠ .low

/-- Nothing is being written: the data lines are inputs, and `WE` is not driven low. -/
structure NotWriting (b : ParallelLines) : Prop where
  data : b.dataAll .input = true
  we : b.we.drive ≠ .low

/-- Nothing is being read, and `WE` is driven at all only while there is power. -/
structure NotReading (b : ParallelLines) : Prop where
  oe : b.oe.drive ≠ .low
  power : b.we.dir = .output → b.powered = true

theorem Quiet.safe (b : ParallelLines) (h : Quiet b) : LinesSafe b := ⟨fun ho => absurd ho h.oe, fun hw => absurd hw h.we⟩

theorem NotWriting.safe (b : ParallelLines) (h : NotWriting b) : LinesSafe b := ⟨fun _ => h.data, fun hw => absurd hw h.we⟩

/-- A line that is driven low is an output. -/
theorem dir_of_drive_low {r : LineReg} (h : r.drive = .low) : r.dir = .output := by
  obtain ⟨_ | _, _⟩ := r
  · cases h
  · rfl

theorem NotReading.safe (b : ParallelLines) (h : NotReading b) : LinesSafe b :=
  ⟨fun ho => absurd ho h.oe, fun hw => ⟨h.oe, h.power (dir_of_drive_low hw)⟩⟩

/-- A line that floats or whose latch is high is not driven low. -/
theorem drive_ne_low {r : LineReg} (h : r.dir = .input ∨ r.lat = true) : r.drive ≠ .low := by
  obtain ⟨_ | _, _ | _⟩ := r <;> simp_all [LineReg.drive, Level.ofBool]

/-! Between operations all three hold, once setup has run. -/

theorem LinesOk.quiet {b : ParallelLines} (h : LinesOk b) : Quiet b :=
  ⟨drive_ne_low (h.we.imp_right And.left), drive_ne_low h.oe⟩

theorem LinesOk.notWriting {b : ParallelLines} (h : LinesOk b) : NotWriting b := ⟨h.data, h.quiet.we⟩

theorem LinesOk.notReading {b : ParallelLines} (h : LinesOk b) : NotReading b := by
  refine ⟨h.quiet.oe, fun hw => decide_eq_true ?_⟩
  obtain hin | ⟨-, hlow⟩ := h.we
  · rw [hw] at hin; cases hin
  · rw [← h.pwren, ← hlow]

/-! ## Which events keep them -/

/-- The events of `Latch` write the latches of `SHCLK` and `SHDAT` only (R170). -/
theorem latchEvents_keep {P : ParallelLines → Prop} (hclk : ∀ v b, P b → P { b with shclk := ⟨b.shclk.dir, v⟩ })
    (hdat : ∀ v b, P b → P { b with shdat := ⟨b.shdat.dir, v⟩ }) (a : Addr) : KeptBy P (latchEvents a) := by
  intro e he
  simp only [latchEvents, List.mem_cons, List.mem_flatMap, List.not_mem_nil, or_false] at he
  obtain rfl | ⟨v, -, rfl | rfl | rfl⟩ := he
  · exact hclk false
  · exact hdat v
  · exact hclk true
  · exact hclk false

theorem dataModeEvents_keep {P : ParallelLines → Prop} {d : Dir}
    (h : ∀ p ∈ dataLines, ∀ b, P b → P (b.set p.1 { b.get p.1 with dir := d })) : KeptBy P (dataModeEvents d) := by
  intro e he
  obtain ⟨p, hp, rfl⟩ := List.mem_map.1 he
  exact h p hp

/-- No data line is one of the lines by which the chip is controlled. -/
theorem dataLines_ne_control : ∀ p ∈ dataLines, p.1 ≠ .we ∧ p.1 ≠ .oe ∧ p.1 ≠ .pwren := by decide

theorem set_we_of_ne {b : ParallelLines} {l : PLine} (h : l ≠ .we) (r : LineReg) : (b.set l r).we = b.we :=
  ParallelLines.get_set_ne b r (Ne.symm h)

theorem set_oe_of_ne {b : ParallelLines} {l : PLine} (h : l ≠ .oe) (r : LineReg) : (b.set l r).oe = b.oe :=
  ParallelLines.get_set_ne b r (Ne.symm h)

theorem set_pwren_of_ne {b : ParallelLines} {l : PLine} (h : l ≠ .pwren) (r : LineReg) : (b.set l r).pwren = b.pwren :=
  ParallelLines.get_set_ne b r (Ne.symm h)

theorem Quiet.set {b : ParallelLines} (h : Quiet b) {l : PLine} (hw : l ≠ .we) (ho : l ≠ .oe) (r : LineReg) :
    Quiet (b.set l r) :=
  ⟨by rw [set_we_of_ne hw]; exact h.we, by rw [set_oe_of_ne ho]; exact h.oe⟩

theorem NotReading.set {b : ParallelLines} (h : NotReading b) {l : PLine} (hw : l ≠ .we) (ho : l ≠ .oe) (hp : l ≠ .pwren)
    (r : LineReg) : NotReading (b.set l r) := by
  refine ⟨by rw [set_oe_of_ne ho]; exact h.oe, ?_⟩
  rw [set_we_of_ne hw, ParallelLines.powered, set_pwren_of_ne hp]
  exact h.power

/-- Disabling lets the control lines go and drives no other low (R175). -/
theorem pDisableEvents_keep_quiet : KeptBy Quiet pDisableEvents := by
  refine keptBy_append ?_ (dataModeEvents_keep fun p hp b hb => ?_)
  · simp only [KeptBy, List.forall_mem_cons]
    exact ⟨fun b hb => hb.set (b := b) (l := .pwren) nofun nofun _, fun b hb => hb.set (b := b) (l := .shen) nofun nofun _,
      fun b hb => ⟨nofun, hb.oe⟩, fun b hb => ⟨hb.we, nofun⟩, nofun⟩
  · obtain ⟨hw, ho, -⟩ := dataLines_ne_control p hp
    exact hb.set hw ho _

theorem pSetupEvents_keep_quiet : KeptBy Quiet pSetupEvents := by
  refine keptBy_append ?_ pDisableEvents_keep_quiet
  simp only [KeptBy, List.forall_mem_cons]
  exact ⟨fun b hb => hb.set (b := b) (l := .pwren) nofun nofun _, fun b hb => hb.set (b := b) (l := .shen) nofun nofun _,
    fun b hb => hb.set (b := b) (l := .shclk) nofun nofun _, fun b hb => hb.set (b := b) (l := .shdat) nofun nofun _, nofun⟩

/-- A readByte writes no direction and leaves `WE` alone (R173). -/
theorem pReadEvents_keep_notWriting (p : Params) (a : Addr) (g : List Bool) : KeptBy NotWriting (pReadEvents p a g) := by
  have hoe : ∀ (v : Bool) (n : Nat), KeptBy NotWriting [.set (.par .oe) v, .delayUs n] := by
    intro v n
    simp only [KeptBy, List.forall_mem_cons]
    exact ⟨fun b hb => ⟨hb.data, hb.we⟩, fun b hb => hb, nofun⟩
  refine keptBy_append (keptBy_append (keptBy_append (latchEvents_keep ?_ ?_ a) (hoe _ _)) ?_) (hoe _ _)
  · exact fun _ b hb => ⟨hb.data, hb.we⟩
  · exact fun _ b hb => ⟨hb.data, hb.we⟩
  · intro e he b hb
    obtain ⟨i, hi, rfl⟩ := List.getElem_of_mem he
    rw [List.getElem_zipWith]
    exact hb

/-- A writeByte writes no direction but the data lines', and neither `OE` nor `PWREN` (R174). -/
theorem pWriteEvents_keep_notReading (p : Params) (a : Addr) (x : Byte) : KeptBy NotReading (pWriteEvents p a x) := by
  have hmode : ∀ d, KeptBy NotReading (dataModeEvents d) := fun d => dataModeEvents_keep fun p hp b hb => by
    obtain ⟨hw, ho, hpwren⟩ := dataLines_ne_control p hp
    exact hb.set hw ho hpwren _
  refine keptBy_append (keptBy_append (keptBy_append (keptBy_append (latchEvents_keep ?_ ?_ a) (hmode _)) ?_) ?_) (hmode _)
  · exact fun v b hb => hb.set (l := .shclk) nofun nofun nofun ⟨b.shclk.dir, v⟩
  · exact fun v b hb => hb.set (l := .shdat) nofun nofun nofun ⟨b.shdat.dir, v⟩
  · intro e he b hb
    obtain ⟨q, hq, rfl⟩ := List.mem_map.1 he
    obtain ⟨hw, ho, hpwren⟩ := dataLines_ne_control q hq
    exact hb.set hw ho hpwren _
  · simp only [KeptBy, List.forall_mem_cons]
    exact ⟨fun b hb => hb, fun b hb => ⟨hb.oe, hb.power⟩, fun b hb => hb, fun b hb => ⟨hb.oe, hb.power⟩, fun b hb => hb,
      nofun⟩

/-- An init drives `WE` high once power is on, and only then drives `OE` (R172, R223): three points where nothing is read, then a
stretch where nothing is written. -/
theorem pInitEvents_safeAlong {b : ParallelLines} (h : LinesOk b) (p : Params) : SafeAlong b (pInitEvents p) := by
  have hon : (parallelEvent b (.set (.par .pwren) false)).powered = true := by
    simp [parallelEvent, ParallelLines.powered, ParallelLines.set, ParallelLines.get, h.pwren]
  have hpower : NotReading (parallelEvent b (.set (.par .pwren) false)) := ⟨h.quiet.oe, fun _ => hon⟩
  have hdriven : NotReading (parallelEvent (parallelEvent b (.set (.par .pwren) false)) (.mode (.par .we) .output)) :=
    ⟨h.quiet.oe, fun _ => hon⟩
  have hhigh : NotWriting { b with pwren := ⟨b.pwren.dir, false⟩, we := ⟨.output, true⟩ } :=
    ⟨h.data, drive_ne_low (.inr rfl)⟩
  have hrest : KeptBy NotWriting
      [.mode (.par .oe) .output, .set (.par .oe) true, .set (.par .shen) true, .delayMs p.constants.tParPowerMs] := by
    simp only [KeptBy, List.forall_mem_cons]
    exact ⟨fun b hb => ⟨hb.data, hb.we⟩, fun b hb => ⟨hb.data, hb.we⟩, fun b hb => ⟨hb.data, hb.we⟩, fun b hb => hb, nofun⟩
  exact safeAlong_cons (NotReading.safe _ h.notReading) (safeAlong_cons (NotReading.safe _ hpower)
    (safeAlong_cons (NotReading.safe _ hdriven) (hrest.safeAlong NotWriting.safe hhigh)))

/-- Settles O47: a setup and a disable keep the lines quiet, a readByte writes nothing, a writeByte reads nothing, and an init is
one after the other. -/
theorem parallelLinesAreNeverUnsafe : Obligations.ParallelLinesAreNeverUnsafe := by
  intro i s t evs hi hok h htrace n
  have hlines := ok_iff.1 hok
  suffices hsafe : SafeAlong s.parallel evs from linesSafe_iff.1 (hsafe n)
  cases i with
  | pSetup =>
    obtain rfl := events_eq htrace (pSetup_trace h)
    exact pSetupEvents_keep_quiet.safeAlong Quiet.safe hlines.quiet
  | pInit =>
    obtain rfl := events_eq htrace (pInit_trace h)
    exact pInitEvents_safeAlong hlines _
  | pRead a =>
    obtain ⟨g, -, hread⟩ := pRead_trace h
    obtain rfl := events_eq htrace hread
    exact (pReadEvents_keep_notWriting _ a g).safeAlong NotWriting.safe hlines.notWriting
  | pWrite a x =>
    obtain rfl := events_eq htrace (pWrite_trace h)
    exact (pWriteEvents_keep_notReading _ a x).safeAlong NotReading.safe hlines.notReading
  | pDisable =>
    obtain rfl := events_eq htrace (pDisable_trace h)
    exact pDisableEvents_keep_quiet.safeAlong Quiet.safe hlines.quiet
  | sSetup | sInit | sRead | sWrite | sDisable => cases hi

end Sys2Proof.Machine
end

section
/-! The address shift register and `Latch` (spec/43_parallel_driver.md R170, R176, R178). -/

namespace Sys2Proof.Machine

/-! ## The edges of `SHCLK` (R176) -/

/-- What is observed of `SHDAT` rests on its own registers and the next free bit. -/
theorem observe_shdat_congr {s t : State} (hline : t.parallel.shdat = s.parallel.shdat) (hdraws : t.draws = s.draws) :
    t.observe (.par .shdat) = s.observe (.par .shdat) := by
  have heff : t.eff (.par .shdat) = s.eff (.par .shdat) := congrArg LineReg.drive hline
  rw [State.observe, State.observe, heff, hdraws]

/-- A rise of a driven `SHCLK` takes in what `SHDAT` shows. -/
theorem clockShift_rise (s : State) :
    (s.clockShift ⟨.output, false⟩ ⟨.output, true⟩).sr = shiftIn s.sr (s.observe (.par .shdat)) := rfl

/-- Letting `SHCLK` float from high is no edge in the model (log entry 11). -/
theorem clockShift_float_high (s : State) : s.clockShift ⟨.output, true⟩ ⟨.input, true⟩ = s := rfl

theorem pinSet_shclk_rise_observed {s : State} (hc : s.parallel.shclk = ⟨.output, false⟩) :
    (pinSet (.par .shclk) true s).sr = shiftIn s.sr (s.observe (.par .shdat)) := by
  have hput : (pinSet (.par .shclk) true s).sr = (State.clockShift s.parallel.shclk { s.parallel.shclk with lat := true }
      { s with parallel := s.parallel.set .shclk { s.parallel.shclk with lat := true } }).sr := rfl
  rw [hput, hc, clockShift_rise]
  exact congrArg (shiftIn s.sr) (observe_shdat_congr rfl rfl)

theorem pinMode_shclk_float_high {s : State} (hc : s.parallel.shclk = ⟨.output, true⟩) :
    (pinMode (.par .shclk) .input s).sr = s.sr := by
  have hput : (pinMode (.par .shclk) .input s).sr = (State.clockShift s.parallel.shclk { s.parallel.shclk with dir := .input }
      { s with parallel := s.parallel.set .shclk { s.parallel.shclk with dir := .input } }).sr := rfl
  rw [hput, hc, clockShift_float_high]

/-- Settles O17: of the writes named only the one that raises a driven `SHCLK` is an edge that the register sees. -/
theorem shiftRegisterMovesOnRisingEdgeOnly : Obligations.ShiftRegisterMovesOnRisingEdgeOnly := by
  refine ⟨fun s hout => ⟨fun hlow i hi => ?_, fun hdat => ?_, pinSet_shclk_fall hout, fun hhigh => ⟨?_, ?_⟩⟩,
    fun s => ⟨pinMode_shclk_output_sr s, fun l v d hl => ⟨?_, ?_⟩⟩⟩
  · rw [pinSet_shclk_rise_observed (by rw [← hout, ← hlow]), shiftIn_getLsbD, decide_eq_true hi, Bool.true_and]
  · exact observe_of_eff (drive_of_output hdat)
  · rw [pinSet_same (s := s) (l := .par .shclk) hhigh, tick_sr, emit_sr]
  · exact pinMode_shclk_float_high (by rw [← hout, ← hhigh])
  · exact (pinSet_writesLine l v s).sr hl
  · exact (pinMode_writesLine l d s).sr hl

/-! ## `Latch` (R170, R178) -/

/-- After shifting in a list of bits the last of them stands at bit 0, the one before it at bit 1, and so on (R178). -/
theorem foldl_shiftIn_getLsbD (l : List Bool) (r : Addr) {j : Nat} (hj : j < l.length) (hj16 : j < 16) :
    (l.foldl shiftIn r).getLsbD j = l.getD (l.length - 1 - j) false := by
  induction l using List.reverseRecOn generalizing j with
  | nil => cases hj
  | append_singleton l b ih =>
    rw [List.foldl_concat, shiftIn_getLsbD, List.length_append, List.length_singleton, Nat.add_sub_cancel]
    cases j with
    | zero => simp
    | succ j =>
      have hjl : j < l.length := by simpa using hj
      rw [if_neg (Nat.succ_ne_zero j), decide_eq_true hj16, Bool.true_and, Nat.add_sub_cancel,
        ih hjl (Nat.lt_of_succ_lt hj16), List.getD_append _ _ _ _ (by omega)]
      congr 1
      omega

/-- Bit `k` of the shift stream is bit `15 - k` of the address (R89). -/
theorem shiftStream_getD (a : Addr) {k : Nat} (hk : k < 16) : (shiftStream a).getD k false = a.getLsbD (15 - k) := by
  simp [shiftStream, hk]

/-- The first `k + 1` bits of the shift stream, shifted in, are the top `k + 1` bits of the address (R178). -/
theorem foldl_shiftIn_take_getLsbD (a r : Addr) {k j : Nat} (hk : k < 16) (hj : j ≤ k) :
    (((shiftStream a).take (k + 1)).foldl shiftIn r).getLsbD j = a.getLsbD (15 - k + j) := by
  have hlen : ((shiftStream a).take (k + 1)).length = k + 1 := List.length_take_of_le (by simpa [shiftStream] using hk)
  have hbit : ((shiftStream a).take (k + 1)).getD (k - j) false = (shiftStream a).getD (k - j) false := by
    rw [List.getD_eq_getElem?_getD, List.getElem?_take_of_lt (by omega), List.getD_eq_getElem?_getD]
  rw [foldl_shiftIn_getLsbD _ _ (by omega) (by omega), hlen, Nat.add_sub_cancel, hbit, shiftStream_getD a (by omega)]
  congr 1
  omega

/-- Settles O18: step 1 is a fall, and each iteration one shift of the next bit of the stream. -/
theorem latchShiftsTheAddressIn : Obligations.LatchShiftsTheAddressIn := by
  intro a s hclk hdat
  refine ⟨pinSet_shclk_fall hclk, fun k hk j hj => ?_, latch_sr hdat hclk⟩
  rw [foldl_shiftBit_sr _ (by simp [ParallelLines.set, hdat]) (by simp [ParallelLines.set, ParallelLines.get, hclk])]
  exact foldl_shiftIn_take_getLsbD a _ hk hj

/-- Settles O19: the round of a latch and its first step write the two latches and record their events, and nothing else. -/
theorem latchIssuesItsEvents : Obligations.LatchIssuesItsEvents := by
  intro a s
  exact ⟨trace_eq_append (latch_log a s), rfl, latch_parallel a s, latch_chip a s,
    ⟨latch_addr a s, latch_wdata a s, latch_rdata a s⟩,
    ⟨latch_started a s, latch_serial a s, latch_transport a s, latch_answer a s⟩, latch_seq a s, latch_sampled a s,
    latch_pwrenLowAt a s, latch_inPhase a s, latch_params a s, latch_host a s, latch_now_le a s⟩

end Sys2Proof.Machine
end

section
/-! Parallel setup and disable as the rules state them (spec/43_parallel_driver.md R171, R175): the end state, the trace and the
frame. -/

namespace Sys2Proof.Machine

/-! ## What a parallel instruction leaves alone -/

/-- What acceptance and the end of an operation do not write, and no step of the instruction either, the instruction leaves as it
was. -/
theorem ApartFromSequencer.exec_same {γ : Type} {g : State → γ} (hg : ApartFromSequencer g) {i : Instr} {s t : State}
    (h : exec i s = .next t) (hsteps : ∀ f ∈ stepsOf i.variant i.op, ∀ u, g (f u) = g u) : g t = g s := by
  rw [exec_next_eq h, operate, hg.finish, runSteps_same g i.op (fun u q => hg.atSeq q u) hsteps, hg.accept, hg.loadOperands]

theorem sr_apart : ApartFromSequencer State.sr :=
  ⟨fun _ _ => rfl, fun _ _ => rfl, fun i _ => by cases i <;> rfl, fun _ _ => rfl, finish_sr⟩

theorem sampled_apart : ApartFromSequencer State.sampled :=
  ⟨fun _ _ => rfl, fun _ _ => rfl, fun i _ => by cases i <;> rfl, fun _ _ => rfl, finish_sampled⟩

theorem pwrenLowAt_apart : ApartFromSequencer State.pwrenLowAt :=
  ⟨fun _ _ => rfl, fun _ _ => rfl, fun i _ => by cases i <;> rfl, fun _ _ => rfl, finish_pwrenLowAt⟩

/-- A parallel instruction leaves the serial variant alone (R83). -/
theorem exec_next_sameSerialSide {i : Instr} {s t : State} (h : exec i s = .next t) (hi : i.variant = .parallel) :
    SameSerialSide s t :=
  serialSide_eq_iff.1 (serialSide_apart.exec_same h (hi ▸ serialSide_stepsOf i.op))

/-- Of the parallel operations only those that latch an address move the shift register (R176, R180). -/
theorem sr_stepsOf {op : Op} (hread : op ≠ .read) (hwrite : op ≠ .write) :
    ∀ f ∈ stepsOf .parallel op, ∀ s, (f s).sr = s.sr := by
  cases op with
  | setup => simp [stepsOf, pSetupSteps, callPDisable, pDisableSteps]
  | init => simp [stepsOf, pInitSteps, drive]
  | read => exact absurd rfl hread
  | write => exact absurd rfl hwrite
  | disable => simp [stepsOf, pDisableSteps]

/-- Only a readByte samples the data lines (R173). -/
theorem sampled_stepsOf {op : Op} (hread : op ≠ .read) : ∀ f ∈ stepsOf .parallel op, ∀ s, (f s).sampled = s.sampled := by
  cases op with
  | setup => simp [stepsOf, pSetupSteps, callPDisable, pDisableSteps]
  | init => simp [stepsOf, pInitSteps, drive]
  | read => exact absurd rfl hread
  | write => simp [stepsOf, pWriteSteps, latchAddr]
  | disable => simp [stepsOf, pDisableSteps]

theorem exec_next_sr {i : Instr} {s t : State} (h : exec i s = .next t) (hi : i.variant = .parallel) (hread : i.op ≠ .read)
    (hwrite : i.op ≠ .write) : t.sr = s.sr := sr_apart.exec_same h (hi ▸ sr_stepsOf hread hwrite)

theorem exec_next_sampled {i : Instr} {s t : State} (h : exec i s = .next t) (hi : i.variant = .parallel) (hread : i.op ≠ .read) :
    t.sampled = s.sampled := sampled_apart.exec_same h (hi ▸ sampled_stepsOf hread)

theorem sameMem_of_mem {s t : State} (hparams : t.params = s.params) (hmem : t.chip.mem = s.chip.mem) : SameMem s t := by
  intro a
  rw [State.memRead, State.memRead, hparams, hmem]

/-! ## The array -/

/-- Disabling cuts the power before it lets `WE` float, so the chip sees no write pulse (R175, R66). -/
theorem callPDisable_mem (s : State) : (callPDisable s).chip.mem = s.chip.mem := by
  simp [callPDisable, pDisableSteps, pinMode_we_mem_off, ParallelLines.powered, ParallelLines.set, ParallelLines.get]

theorem pDisable_mem {s t : State} (h : exec .pDisable s = .next t) : t.chip.mem = s.chip.mem := by
  obtain rfl := pDisable_next h
  simp [operate, runSteps, pDisableSteps, finish, pinMode_we_mem_off, ParallelLines.powered, ParallelLines.set, ParallelLines.get]

theorem pSetup_mem {s t : State} (h : exec .pSetup s = .next t) : t.chip.mem = s.chip.mem := by
  obtain rfl := pSetup_next h
  simp [operate, runSteps, pSetupSteps, finish, callPDisable_mem]

/-! ## The lines -/

/-- Disabled lines are `Disabled_P` where the four lines of setup are outputs (R39). -/
theorem disabledP_of_disabled {s : State} {b : ParallelLines} (hlines : s.parallel = b.disabled) (hpwren : b.pwren.dir = .output)
    (hshen : b.shen.dir = .output) (hshclk : b.shclk.dir = .output) (hshdat : b.shdat.dir = .output) : s.disabledP = true := by
  simp [State.disabledP, hlines, ParallelLines.disabled, hpwren, hshen, hshclk, hshdat, dataAll_iff]

theorem disabled_data (b : ParallelLines) : ∀ p ∈ dataLines, b.disabled.get p.1 = ⟨.input, (b.get p.1).lat⟩ := by
  simp only [dataLines, List.forall_mem_cons]
  exact ⟨rfl, rfl, rfl, rfl, rfl, rfl, rfl, rfl, nofun⟩

/-- Disabling lines that are disabled changes none of them. -/
theorem parallel_disabled_disabled (b : ParallelLines) : b.disabled.disabled = b.disabled := rfl

/-! ## The statements -/

/-- Settles O37: setup makes its four lines outputs, then disables, and writes the latches of `PWREN` and `SHEN` only. -/
theorem parallelSetupReachesDisabled : Obligations.ParallelSetupReachesDisabled := by
  intro s hv
  have h := exec_pSetup hv
  have hlines := pSetup_parallel h
  refine ⟨_, h, disabledP_of_disabled hlines rfl rfl rfl rfl, fun l hpwren hshen => ?_, pSetup_trace h,
    exec_next_sr h rfl nofun nofun, exec_next_sampled h rfl nofun, exec_next_sameRegs h rfl nofun, exec_next_sameSerialSide h rfl,
    sameMem_of_mem (exec_next_params h) (pSetup_mem h), exec_next_completed h⟩
  rw [hlines, disabled_lat, if_neg hpwren, if_neg hshen, setupDriven_lat]

/-- Settles O44: a disable runs in any phase, and what it makes of each line is said by the bank it leaves. -/
theorem parallelDisablePowersOff : Obligations.ParallelDisablePowersOff := by
  intro s hv
  have h := exec_pDisable hv
  have hlines := pDisable_parallel h
  exact ⟨_, h, pDisable_trace h, by rw [hlines]; rfl, by rw [hlines]; rfl, by rw [hlines]; rfl, by rw [hlines]; rfl,
    by rw [hlines]; rfl, by rw [hlines]; rfl, by rw [hlines]; exact disabled_data _, disabledP_of_disabled hlines,
    exec_next_sr h rfl nofun nofun, exec_next_sampled h rfl nofun, exec_next_sameRegs h rfl nofun, exec_next_sameSerialSide h rfl,
    sameMem_of_mem (exec_next_params h) (pDisable_mem h), exec_next_completed h⟩

/-- Settles O45: the second disable finds the lines disabled. -/
theorem parallelDisableTwiceIsOnce : Obligations.ParallelDisableTwiceIsOnce := by
  intro s t h
  obtain ⟨hv, -, -⟩ := exec_next h
  have h' := exec_pDisable (s := t) (exec_next_params h ▸ hv)
  exact ⟨_, h', by rw [pDisable_parallel h', pDisable_parallel h, parallel_disabled_disabled], exec_next_sr h' rfl nofun nofun,
    pDisable_trace h', sameMem_of_mem (exec_next_params h') (pDisable_mem h')⟩

end Sys2Proof.Machine
end

section
/-! Parallel init as the rule states it (spec/43_parallel_driver.md R172, R223): the stray write pulse that its first `Drive` of
`WE` may end, and the end state, the trace and the frame. -/

namespace Sys2Proof.Machine

/-! ## The first `Drive` of `WE` (R223, U16) -/

/-- Making `WE` an output takes no free value: it ends no write pulse (R66). -/
theorem pinMode_we_output_draws (s : State) : (pinMode (.par .we) .output s).draws = s.draws := by
  have hput : (pinMode (.par .we) .output s).draws = (State.clockWrite s.parallel.we.drive
      (LineReg.drive ⟨.output, s.parallel.we.lat⟩)
      { s with parallel := s.parallel.set .we ⟨.output, s.parallel.we.lat⟩ }).draws := by
    simp [pinMode, State.putLine, State.putParallel, State.line, ParallelLines.get]
  rw [hput]
  cases hd : s.parallel.we.dir <;> cases hl : s.parallel.we.lat <;>
    simp only [State.clockWrite, LineReg.drive, hd, hl, Level.ofBool] <;> (repeat' split) <;> simp_all

/-- So it leaves the address that a write pulse would take (R66). -/
theorem pulseAddr_pinMode_we_output (s : State) : (pinMode (.par .we) .output s).pulseAddr = s.pulseAddr := by
  simp [State.pulseAddr, State.apinDriven, pinMode_we_output_draws, ParallelLines.set]

/-- A chip without power loses nothing by a write of `LAT[WE]` (R66). -/
theorem pinSet_we_mem_off {s : State} (h : s.parallel.powered = false) (v : Bool) :
    (pinSet (.par .we) v s).chip.mem = s.chip.mem := by
  rw [pinSet_we_chip, clockWrite_unpowered]
  exact h

/-- With the premise `NO_WRITE_BEFORE_READY` a chip not yet ready loses nothing by the end of a write pulse (U16). -/
theorem endPulse_beforeReady {s : State} (hpremise : s.params.noWriteBeforeReady = true) (hbefore : s.beforeReady = true)
    (certain : Bool) : s.endPulse certain = s := by
  simp [State.endPulse, hpremise, hbefore]

theorem clockWrite_mem_beforeReady {s : State} (hpremise : s.params.noWriteBeforeReady = true) (hbefore : s.beforeReady = true)
    (a b : Level) : (s.clockWrite a b).chip.mem = s.chip.mem := by
  unfold State.clockWrite
  repeat' split
  all_goals first | rfl | rw [endPulse_beforeReady hpremise hbefore, setPulse_chip]

theorem pinSet_we_mem_beforeReady {s : State} (hpremise : s.params.noWriteBeforeReady = true) (hbefore : s.beforeReady = true)
    (v : Bool) : (pinSet (.par .we) v s).chip.mem = s.chip.mem := by
  rw [pinSet_we_chip]
  exact clockWrite_mem_beforeReady (s := { s with parallel := s.parallel.set .we ⟨s.parallel.we.dir, v⟩ }) hpremise hbefore _ _

/-! ## `P.INIT` (R172) -/

/-- `s` under `P.INIT` inside the first `Drive` of `WE` (R172 step 2): power is on where `PWREN` is an output, `WE` is an output,
and its latch is still what it was. -/
def initWeDriven (s : State) : State :=
  pinMode (.par .we) .output (atSeq (.running .init 2) (pinSet (.par .pwren) false (accept .init s)))

theorem initWeDriven_pulseAddr (s : State) : (initWeDriven s).pulseAddr =
    (pinMode (.par .we) .output (pinSet (.par .pwren) false (accept .init s))).pulseAddr := by
  rw [initWeDriven, pulseAddr_pinMode_we_output, pulseAddr_pinMode_we_output]
  rfl

theorem initWeDriven_params (s : State) : (initWeDriven s).params = s.params := by simp [initWeDriven]

theorem initWeDriven_mem (s : State) : (initWeDriven s).chip.mem = s.chip.mem := by simp [initWeDriven, pinMode_we_output_mem]

theorem initWeDriven_parallel (s : State) : (initWeDriven s).parallel =
    { s.parallel with pwren := ⟨s.parallel.pwren.dir, false⟩, we := ⟨.output, s.parallel.we.lat⟩ } := by
  simp [initWeDriven, ParallelLines.set, ParallelLines.get]

/-- What is left of the init writes no `WE`: the array is that which the write of its latch leaves. -/
theorem pInit_mem {s t : State} (h : exec .pInit s = .next t) :
    t.chip.mem = (pinSet (.par .we) true (initWeDriven s)).chip.mem := by
  obtain rfl := pInit_next h
  simp [operate, runSteps, pInitSteps, drive, finish, initWeDriven]

/-- The array is as it was but for the cell of a stray write pulse (R223, U16). -/
theorem pInit_memRead_other {s t : State} (h : exec .pInit s = .next t) {b : Addr}
    (hb : cell s.params b ≠ cell s.params (initWeDriven s).pulseAddr) : t.memRead b = s.memRead b := by
  have hother := pinSet_we_other (s := initWeDriven s) (c := b) (by rwa [initWeDriven_params]) true
  calc t.memRead b = (pinSet (.par .we) true (initWeDriven s)).memRead b := by
        rw [State.memRead, State.memRead, exec_next_params h, pInit_mem h, pinSetPar_params, initWeDriven_params]
    _ = (initWeDriven s).memRead b := hother
    _ = s.memRead b := by rw [State.memRead, State.memRead, initWeDriven_params, initWeDriven_mem]

/-- With its latch high `WE` is never low in an init, so no write pulse ends (R223). -/
theorem pInit_mem_of_we_high {s t : State} (h : exec .pInit s = .next t) (hwe : s.parallel.we.lat = true) :
    t.chip.mem = s.chip.mem := by
  have hline : (initWeDriven s).parallel.we.drive ≠ .low := by
    rw [initWeDriven_parallel]
    exact drive_ne_low (.inr hwe)
  rw [pInit_mem h, pinSet_we_high_mem hline, initWeDriven_mem]

/-- An init that powers the chip up finds it not ready at the end of the stray pulse, where that comes within its power-up time
(R64, U16). -/
theorem initWeDriven_beforeReady {s : State} (hoff : s.parallel.pwren = ⟨.output, true⟩)
    (hshort : s.slack.headD 0 + s.slack.tail.headD 0 < s.params.tRdyPar) : (initWeDriven s).beforeReady = true := by
  obtain ⟨-, hup⟩ := pinSet_pwren_apply (s := accept .init s) hoff
  have hrdy : (initWeDriven s).chip.rdyAt = some (s.now + s.params.tRdyPar) := by
    rw [initWeDriven, pinMode_we_chip, clockWrite_rdyAt]
    exact congrArg Chip.rdyAt hup
  have hnow : (initWeDriven s).now = s.now + s.slack.headD 0 + s.slack.tail.headD 0 := by simp [initWeDriven]
  simp only [State.beforeReady, hrdy, hnow, decide_eq_true_eq]
  omega

/-- So with the premise `NO_WRITE_BEFORE_READY` the chip takes no byte; one that stays without power takes none anyway (U16). -/
theorem pInit_mem_of_premise {s t : State} (h : exec .pInit s = .next t) (hpremise : s.params.noWriteBeforeReady = true)
    (hoff : s.parallel.powered = false) (hshort : s.slack.headD 0 + s.slack.tail.headD 0 < s.params.tRdyPar) :
    t.chip.mem = s.chip.mem := by
  rw [pInit_mem h, ← initWeDriven_mem s]
  cases hdir : s.parallel.pwren.dir with
  | input =>
    refine pinSet_we_mem_off ?_ true
    simp [initWeDriven_parallel, ParallelLines.powered, hdir]
  | output =>
    have hhigh : s.parallel.pwren = ⟨.output, true⟩ := by
      have hne : s.parallel.pwren ≠ ⟨.output, false⟩ := of_decide_eq_false hoff
      generalize s.parallel.pwren = r at *
      obtain ⟨_, _ | _⟩ := r
      · exact absurd (by rw [← hdir]) hne
      · rw [← hdir]
    exact pinSet_we_mem_beforeReady (by rwa [initWeDriven_params]) (initWeDriven_beforeReady hhigh hshort) true

/-- An init takes at least its wait (R115, R172). -/
theorem pInit_now_le {s t : State} (h : exec .pInit s = .next t) :
    s.now + s.params.constants.tParPowerMs * 1000 ≤ t.now := by
  obtain rfl := pInit_next h
  simp [operate, runSteps, pInitSteps, drive]
  omega

/-- Settles O38: an init is refused for contention alone; of its writes to `WE` only that of the latch can end a write pulse. -/
theorem parallelInitRunsWithoutContention : Obligations.ParallelInitRunsWithoutContention := by
  intro s hv
  refine ⟨fun hcon => exec_refused hv ((stopAt_init hv).trans (if_pos hcon)), fun hcalm => ?_⟩
  have h := exec_pInit hv hcalm
  have hparams := exec_next_params h
  have hnow := pInit_now_le h
  refine ⟨_, h, pInit_parallel h, pInit_trace h, hnow, fun hgiven => ?_, exec_next_sr h rfl nofun nofun,
    exec_next_sampled h rfl nofun, fun b hb => pInit_memRead_other h (by rwa [initWeDriven_pulseAddr]),
    fun hwe => sameMem_of_mem hparams (pInit_mem_of_we_high h hwe),
    fun hpremise hoff hshort => sameMem_of_mem hparams (pInit_mem_of_premise h hpremise hoff hshort),
    exec_next_sameRegs h rfl nofun, exec_next_sameSerialSide h rfl, exec_next_completed h⟩
  obtain ⟨-, -, -, hwait, -⟩ := given_delays hgiven
  omega

/-! ## The Active phase (R39) -/

/-- Once setup has run, the lines that an init leaves are those of `Active_P` (R39, R172). -/
theorem LinesOk.active_initialised {b : ParallelLines} (h : LinesOk b) : ActiveLines b.initialised where
  pwren := by rw [← h.pwren]; rfl
  we := rfl
  oe := rfl
  shen := by rw [← h.shen]; rfl
  shclk := h.shclk
  shdat := h.shdat
  data := h.data

/-- At the end of an init its wait has passed since `LAT[PWREN]` last went to 0 (R39, R172). -/
theorem pInit_power_on {s t : State} (h : exec .pInit s = .next t) (hlow : s.pwrenLowAt ≤ s.now) :
    t.pwrenLowAt + s.params.constants.tParPowerMs * 1000 ≤ t.now := by
  have hparams : (initBeforeWait s).params = s.params := params_runSteps (v := .parallel) (List.take_subset _ _) 1 (accept .init s)
  have hbefore := initBeforeWait_lowAt_le hlow
  rw [pInit_next h, operate_pInit, waitMs_eq, hparams]
  simp only [atSeq_pwrenLowAt, delayMs_pwrenLowAt, atSeq_now, delayMs_now]
  omega

/-- Settles O39: the invariants put no line in the way of an init, and its last step is the wait of `Active_P`. -/
theorem parallelInitReachesActive : Obligations.ParallelInitReachesActive := by
  intro s hv hok hsound
  obtain ⟨hcalm, -, -⟩ := ok_calm hok
  have h := exec_pInit hv hcalm
  refine ⟨_, h, activeP_iff.2 ⟨pInit_parallel h ▸ (ok_iff.1 hok).active_initialised, ?_⟩⟩
  rw [exec_next_params h]
  obtain ⟨-, hlow⟩ := sound_iff.1 hsound
  exact pInit_power_on h hlow

end Sys2Proof.Machine
end

section
/-! Parallel readByte as the rule states it (spec/43_parallel_driver.md R173): the samples, the trace, the end state and the
frame. -/

namespace Sys2Proof.Machine

/-- `P.READ` writes neither the array nor the time of the last fall of `LAT[PWREN]` (R173). -/
theorem pReadSteps_keep : ∀ f ∈ pReadSteps, ∀ s, (f s).chip.mem = s.chip.mem ∧ (f s).pwrenLowAt = s.pwrenLowAt := by
  simp [pReadSteps, latchAddr, takeSample]

theorem pRead_pwrenLowAt {a : Addr} {s t : State} (h : exec (.pRead a) s = .next t) : t.pwrenLowAt = s.pwrenLowAt :=
  pwrenLowAt_apart.exec_same h fun f hf u => (pReadSteps_keep f hf u).2

/-- In the Active phase a readByte leaves the array as it was (R173). -/
theorem pRead_mem {a : Addr} {s t : State} (h : exec (.pRead a) s = .next t) (hd : s.resultsDefined = true) :
    t.chip.mem = s.chip.mem := by
  have hphase : (readAfter 7 a s).inPhase = s.resultsDefined := by simp [readAfter, runSteps, pReadSteps, latchAddr, takeSample]
  have hsteps := runSteps_same (fun u => u.chip.mem) .read (fun _ _ => rfl) (fun f hf u => (pReadSteps_keep f hf u).1) 1
    (accept .read (setAddr a s))
  rw [(pRead_next h).trans (operate_pRead a s), finish_mem fun _ => hphase.trans hd]
  exact hsteps

/-- The shift register holds the address where its two lines are outputs (R173, R178). -/
theorem pRead_sr {a : Addr} {s t : State} (h : exec (.pRead a) s = .next t) (hclk : s.parallel.shclk.dir = .output)
    (hdat : s.parallel.shdat.dir = .output) : t.sr = a := by
  rw [(pRead_next h).trans (operate_pRead a s)]
  simp [readAfter, runSteps, pReadSteps, latchAddr, takeSample, latch_sr, hclk, hdat]

/-- A readByte takes at least its two delays (R113, R173). -/
theorem pRead_now_le {a : Addr} {s t : State} (h : exec (.pRead a) s = .next t) :
    s.now + s.params.constants.tParOeUs + s.params.constants.tParOeOffUs ≤ t.now := by
  have hbefore : s.now + s.params.constants.tParOeUs ≤ (readAfter 3 a s).now := by
    have hlatch := latch_now_le a (accept .read (setAddr a s))
    simp [readAfter, runSteps, pReadSteps, latchAddr] at hlatch ⊢
    omega
  have hsample := dataGet_now_le (readAfter 3 a s)
  have hafter : (dataGet (readAfter 3 a s)).now + s.params.constants.tParOeOffUs ≤ (readAfter 7 a s).now := by
    simp [readAfter, runSteps, pReadSteps, latchAddr, takeSample]
    omega
  rw [(pRead_next h).trans (operate_pRead a s), finish_now]
  omega

/-! ## The samples (R173 steps 4 and 7) -/

/-- Before the samples the address has been latched and `OE` driven low (R173 steps 1 to 3). -/
theorem readAfter_before_log (a : Addr) (s : State) : (readAfter 3 a s).log =
    .delayUs s.params.constants.tParOeUs :: .set (.par .oe) false :: ((latchEvents a).reverse ++ s.log) := by
  simp [readAfter, runSteps, pReadSteps, latchAddr]

/-- After them `OE` goes high (R173 steps 5 to 7). -/
theorem readAfter_after_log (a : Addr) (s : State) : (readAfter 7 a s).log =
    .delayUs s.params.constants.tParOeOffUs :: .set (.par .oe) true :: (dataGet (readAfter 3 a s)).log := by
  simp [readAfter, runSteps, pReadSteps, latchAddr, takeSample]

/-- No data line is written before its sample (R173). -/
theorem readAfter_data (a : Addr) (s : State) : ∀ p ∈ dataLines, (readAfter 3 a s).parallel.get p.1 = s.parallel.get p.1 := by
  have hbank : (readAfter 3 a s).parallel = { s.parallel.latched a with oe := ⟨s.parallel.oe.dir, false⟩ } := by
    simp [readAfter, runSteps, pReadSteps, latchAddr, ParallelLines.set, ParallelLines.get, ParallelLines.latched]
  rw [hbank]
  simp only [dataLines, List.forall_mem_cons]
  exact ⟨rfl, rfl, rfl, rfl, rfl, rfl, rfl, rfl, nofun⟩

/-- Where the phase makes the result defined, it is the byte of the levels sampled (R91, R173 step 7). -/
theorem readAfter_rdata {a : Addr} {s : State} (hd : s.resultsDefined = true) :
    (readAfter 7 a s).rdata = assembleByte (readAfter 7 a s).sampled := by
  have hphase : (readAfter 6 a s).inPhase = true := by simp [readAfter, runSteps, pReadSteps, latchAddr, hd]
  rw [readAfter_succ (k := 6) (f := takeSample) rfl, atSeq_rdata, atSeq_sampled, takeSample_rdata hphase, takeSample,
    setRdata_sampled]

/-- The levels that a readByte has sampled: the events of its trace, of an output line its latch, with a ready chip in the Active
phase the bits of the byte stored; and the byte that they make is the result (R173). -/
structure Samples (a : Addr) (s t : State) : Prop where
  length : t.sampled.length = 8
  trace : t.trace = s.trace ++ pReadEvents s.params a t.sampled
  latches : ∀ p ∈ dataLines, (s.parallel.get p.1).dir = .output → t.sampled.getD p.2 false = (s.parallel.get p.1).lat
  result : s.resultsDefined = true → t.rdata = assembleByte t.sampled
  stored : s.resultsDefined = true → s.parallelReady = true → t.sampled = dataBits (s.memRead a)

theorem pRead_samples {a : Addr} {s t : State} (h : exec (.pRead a) s = .next t) : Samples a s t := by
  obtain ⟨hv, -, -⟩ := exec_next h
  have ht := (pRead_next h).trans (operate_pRead a s)
  obtain ⟨g, hlength, hg, hlog, houtput, hdriven⟩ := dataGet_sampled (readAfter 3 a s)
  have hkept : (readAfter 7 a s).sampled = (dataGet (readAfter 3 a s)).sampled := by
    simp [readAfter, runSteps, pReadSteps, takeSample]
  have hsampled : t.sampled = g := by rw [ht, finish_sampled, hkept, hg]
  refine ⟨by rw [hsampled, hlength], trace_eq_append ?_, fun p hp hout => ?_, fun hd => ?_, fun hd hr => ?_⟩
  · rw [hsampled, ht, finish_log, readAfter_after_log, hlog, readAfter_before_log]
    simp [pReadEvents]
  · have hline := readAfter_data a s p hp
    rw [hsampled, houtput p hp (by rw [hline, hout]), hline]
  · rw [ht, finish_rdata, finish_sampled, readAfter_rdata hd]
  · obtain ⟨hlines, -⟩ := activeP_iff.1 ((resultsDefined_parallel hv).1 hd)
    obtain ⟨hdrives, hbyte⟩ := readAfter_drives a hlines hr
    rw [hsampled, hdriven hdrives, hbyte]

/-! ## The statements -/

/-- Settles O40: a readByte is refused for contention alone, and `g` are the levels that it keeps. -/
theorem parallelReadRunsWithoutContention : Obligations.ParallelReadRunsWithoutContention := by
  intro a s hv
  refine ⟨fun hcon => exec_refused hv ((stopAt_read hv).trans (if_pos hcon)), fun hcalm => ?_⟩
  have h := exec_pRead (a := a) hv hcalm
  have hsamples := pRead_samples h
  have hnow := pRead_now_le h
  obtain ⟨haddr, hwdata⟩ := exec_next_operands h
  refine ⟨_, _, h, hsamples.length, hsamples.trace, hsamples.latches, pRead_parallel h, pRead_sr h,
    fun hd => ⟨fun i hi => ?_, ?_⟩, hnow, fun hgiven => ?_, haddr, hwdata, pRead_pwrenLowAt h,
    exec_next_sameSerialSide h rfl, exec_next_completed h⟩
  · rw [hsamples.result hd, assembleByte_getLsbD _ hi]
  · exact sameMem_of_mem (exec_next_params h) (pRead_mem h hd)
  · obtain ⟨-, -, -, -, hoe, hoff, -⟩ := given_delays hgiven
    omega

/-- A readByte leaves the lines of the Active phase so (R173). -/
theorem ActiveLines.afterRead {b : ParallelLines} (h : ActiveLines b) (a : Addr) : ActiveLines (b.afterRead a) where
  pwren := h.pwren
  we := h.we
  oe := by rw [ParallelLines.afterRead, h.oe]
  shen := h.shen
  shclk := h.shclk
  shdat := h.shdat
  data := h.data

/-- Settles O41: in the Active phase the samples are the bits of the byte stored, and the lines end as the phase has them. -/
theorem parallelReadReturnsTheStoredByte : Obligations.ParallelReadReturnsTheStoredByte := by
  intro a s hv hd hr
  have hactive := (resultsDefined_parallel hv).1 hd
  obtain ⟨hlines, hpower⟩ := activeP_iff.1 hactive
  obtain ⟨hcalm, -⟩ := activeP_calm hactive
  have h := exec_pRead (a := a) hv hcalm
  have hsamples := pRead_samples h
  have hstored := hsamples.stored hd hr
  have hparams := exec_next_params h
  have hnow := pRead_now_le h
  refine ⟨_, h, by rw [hsamples.result hd, hstored, assembleByte_dataBits], pRead_sr h hlines.shclk hlines.shdat,
    hstored ▸ hsamples.trace, sameMem_of_mem hparams (pRead_mem h hd),
    activeP_iff.2 ⟨pRead_parallel h ▸ hlines.afterRead a, ?_⟩⟩
  rw [pRead_pwrenLowAt h, hparams]
  omega

end Sys2Proof.Machine
end

section
/-! Parallel writeByte as the rule states it (spec/43_parallel_driver.md R174): the trace, the end state, the frame, and the cell
that its write pulse takes. -/

namespace Sys2Proof.Machine

theorem pWrite_pwrenLowAt {a : Addr} {x : Byte} {s t : State} (h : exec (.pWrite a x) s = .next t) :
    t.pwrenLowAt = s.pwrenLowAt :=
  pwrenLowAt_apart.exec_same h (by simp [stepsOf, Instr.variant, Instr.op, pWriteSteps, latchAddr])

/-- The shift register holds the address where its two lines are outputs (R174, R178). -/
theorem pWrite_sr {a : Addr} {x : Byte} {s t : State} (h : exec (.pWrite a x) s = .next t) (hclk : s.parallel.shclk.dir = .output)
    (hdat : s.parallel.shdat.dir = .output) : t.sr = a := by
  rw [(pWrite_next h).trans (operate_pWrite a x s)]
  simp [writeAfter, runSteps, pWriteSteps, latchAddr, latch_sr, hclk, hdat]

/-- A writeByte takes at least its three delays (R113, R115, R174). -/
theorem pWrite_now_le {a : Addr} {x : Byte} {s t : State} (h : exec (.pWrite a x) s = .next t) :
    s.now + s.params.constants.tParSetupUs + s.params.constants.tParWeUs + s.params.constants.tParWriteMs * 1000 ≤ t.now := by
  obtain ⟨hparams, -, hlatched⟩ := writeAfter_keeps 3 a x s
  obtain ⟨-, hrecovery⟩ := writeAfter_recovery a x s
  have hpulse : (writeAfter 3 a x s).now + s.params.constants.tParSetupUs + s.params.constants.tParWeUs
      ≤ (writeAfter 7 a x s).now := by
    rw [writeAfter_succ (k := 6) (f := pinSet (.par .we) true) rfl, writeAfter_succ (k := 5) (f := waitUs Constants.tParWeUs) rfl,
      writeAfter_succ (k := 4) (f := pinSet (.par .we) false) rfl,
      writeAfter_succ (k := 3) (f := waitUs Constants.tParSetupUs) rfl]
    simp [hparams]
    omega
  rw [(pWrite_next h).trans (operate_pWrite a x s), finish_now]
  omega

/-- In the Active phase the end of a writeByte is that of its last step (R137). -/
theorem pWrite_chip {a : Addr} {x : Byte} {s t : State} (h : exec (.pWrite a x) s = .next t) (hd : s.resultsDefined = true) :
    t.chip = (writeAfter 7 a x s).chip := by
  obtain ⟨-, hphase, -⟩ := writeAfter_keeps 9 a x s
  obtain ⟨hchip, -⟩ := writeAfter_recovery a x s
  rw [(pWrite_next h).trans (operate_pWrite a x s), finish_inPhase_eq (hphase.trans hd), atSeq_chip, hchip]

/-- During the write pulse the chip's address pins stand at the address (R66, R174). -/
theorem writeAfter_pulseAddr {s : State} (a : Addr) (x : Byte) (hlines : ActiveLines s.parallel) :
    (writeAfter 6 a x s).pulseAddr = a := by
  have hp := writeAfter_presented a x hlines
  rw [writeAfter_succ (k := 5) (f := waitUs Constants.tParWeUs) rfl,
    writeAfter_succ (k := 4) (f := pinSet (.par .we) false) rfl]
  have hshen : (writeAfter 4 a x s).parallel.shen.drive = .high := by rw [hp.shen, hlines.shen]; rfl
  simp [State.pulseAddr, State.apinDriven, ParallelLines.set, hshen, hp.sr]

/-- Until the write pulse ends the array is as it was (R66, R174 steps 1 to 6). -/
theorem writeAfter_mem_before {s : State} (a : Addr) (x : Byte) (hlines : ActiveLines s.parallel) :
    (writeAfter 6 a x s).chip.mem = s.chip.mem := by
  have hp := writeAfter_presented a x hlines
  have hwe : (writeAfter 4 a x s).parallel.we.drive ≠ .low := by
    rw [hp.we, hlines.we]
    exact drive_ne_low (.inr rfl)
  rw [writeAfter_succ (k := 5) (f := waitUs Constants.tParWeUs) rfl,
    writeAfter_succ (k := 4) (f := pinSet (.par .we) false) rfl]
  simp [pinSet_we_high_mem hwe, hp.chip]

/-- In the Active phase a writeByte changes no cell but the one its address names, whether or not a chip is ready (R66, R174). -/
theorem pWrite_sameMemExcept {a : Addr} {x : Byte} {s t : State} (h : exec (.pWrite a x) s = .next t)
    (hd : s.resultsDefined = true) : SameMemExcept a s t := by
  obtain ⟨hv, -, -⟩ := exec_next h
  obtain ⟨hlines, -⟩ := activeP_iff.1 ((resultsDefined_parallel hv).1 hd)
  obtain ⟨hparams, -, -⟩ := writeAfter_keeps 6 a x s
  intro b hb
  have hother := pinSet_we_other (s := writeAfter 6 a x s) (c := b) (by rwa [hparams, writeAfter_pulseAddr a x hlines]) true
  calc t.memRead b = (pinSet (.par .we) true (writeAfter 6 a x s)).memRead b := by
        rw [State.memRead, State.memRead, exec_next_params h, pWrite_chip h hd, pinSetPar_params, hparams,
          writeAfter_succ (k := 6) (f := pinSet (.par .we) true) rfl, atSeq_chip]
    _ = (writeAfter 6 a x s).memRead b := hother
    _ = s.memRead b := by rw [State.memRead, State.memRead, hparams, writeAfter_mem_before a x hlines]

/-- Settles O42: a writeByte is refused for contention alone, and its one write pulse takes the cell at the address. -/
theorem parallelWriteRunsWithoutContention : Obligations.ParallelWriteRunsWithoutContention := by
  intro a x s hv
  refine ⟨fun hcon => exec_refused hv ((stopAt_write hv).trans (if_pos hcon)), fun hcalm => ?_⟩
  have h := exec_pWrite (a := a) (x := x) hv hcalm
  have hnow := pWrite_now_le h
  obtain ⟨haddr, hwdata⟩ := exec_next_operands h
  refine ⟨_, h, pWrite_trace h, pWrite_parallel h, pWrite_sr h, pWrite_sameMemExcept h, hnow, fun hgiven => ?_, haddr, hwdata,
    exec_next_rdata h nofun, pWrite_pwrenLowAt h, exec_next_sampled h rfl nofun, exec_next_sameSerialSide h rfl,
    exec_next_completed h⟩
  obtain ⟨-, -, -, -, -, -, hsetup, hwe, hwrite⟩ := given_delays hgiven
  omega

theorem activeP_atSeq (q : Seq) (s : State) : (atSeq q s).activeP = s.activeP := rfl

/-- Settles O43: the pulse finds the chip ready and its pins driven, and nothing after it touches the array or the phase. -/
theorem parallelWriteStoresTheByte : Obligations.ParallelWriteStoresTheByte := by
  intro a x s hv hd hsound hr
  obtain ⟨hlines, -⟩ := activeP_iff.1 ((resultsDefined_parallel hv).1 hd)
  obtain ⟨hcells, -⟩ := sound_iff.1 hsound
  obtain ⟨h, hactive⟩ := pWrite_active a x hv hd
  obtain ⟨hmem, -⟩ := writeAfter_rise a x hlines hr
  have hchip := pWrite_chip h hd
  obtain ⟨hsame, hother⟩ := stored_of_mem hcells (exec_next_params h) ((congrArg Chip.mem hchip).trans hmem)
  exact ⟨_, h, hsame, hother, pWrite_sr h hlines.shclk hlines.shdat, (activeP_atSeq _ _).trans hactive⟩

end Sys2Proof.Machine
end

section
/-! Completion (spec/60_exceptions.md R190, 41_eepromio_contract.md R137): an instruction on a block of its variant has a next state
where the one refusal its rule allows it is shut out, and every next state is a completed one. -/

namespace Sys2Proof.Machine

/-- Settles O9: each instruction runs under the one condition of its own refusal, and setup, serial init and parallel disable under
none. -/
theorem everyAcceptedOperationCompletes : Obligations.EveryAcceptedOperationCompletes := by
  intro i s hv hdisable hbus hinit hread hwrite
  have hown : s.params.variant = i.variant := hv.symm
  have hruns : ∃ t, exec i s = .next t := by
    cases i with
    | sSetup => exact ⟨_, exec_sSetup hown⟩
    | sInit => exact ⟨_, exec_sInit hown⟩
    | sRead a => exact ⟨_, exec_sRead hown (hbus (.inl rfl) rfl)⟩
    | sWrite a x => exact ⟨_, exec_sWrite hown (hbus (.inr rfl) rfl)⟩
    | sDisable => exact ⟨_, exec_sDisable hown (hdisable rfl)⟩
    | pSetup => exact ⟨_, exec_pSetup hown⟩
    | pInit => exact ⟨_, exec_pInit hown (hinit rfl)⟩
    | pRead a => exact ⟨_, exec_pRead hown (hread rfl rfl)⟩
    | pWrite a x => exact ⟨_, exec_pWrite hown (hwrite rfl rfl)⟩
    | pDisable => exact ⟨_, exec_pDisable hown⟩
  obtain ⟨t, ht⟩ := hruns
  exact ⟨t, ht, exec_next_completed ht⟩

end Sys2Proof.Machine
end

section
/-! Setup, then init, from any state (spec/70_reset_and_hazards.md R213, R214): the results of readByte and writeByte are defined
(10_state.md R38, R39). -/

namespace Sys2Proof.Machine

/-- A fall of `LAT[PWREN]` is timed as it happens (R39). -/
theorem pinSet_pwren_fall {s : State} (hhigh : s.parallel.pwren.lat = true) :
    (pinSet (.par .pwren) false s).pwrenLowAt = s.now := by
  simp [pinSet, State.putLine, State.putParallel, State.line, ParallelLines.get, hhigh]

/-- An init that finds `LAT[PWREN]` high powers the chip at once, so what was timed before does not count (R39, R172). -/
theorem pInit_pwrenLowAt {s t : State} (h : exec .pInit s = .next t) (hhigh : s.parallel.pwren.lat = true) :
    t.pwrenLowAt = s.now := by
  have hfall : (pinSet (.par .pwren) false (accept .init s)).pwrenLowAt = s.now := pinSet_pwren_fall hhigh
  obtain rfl := pInit_next h
  simp [operate, runSteps, pInitSteps, drive, finish, hfall]

/-- Once setup has run and left `LAT[PWREN]` high, an init ends in `Active_P`, whatever the time of the last fall was before. -/
theorem pInit_active_of_off {s : State} (hv : s.params.variant = .parallel) (hlines : LinesOk s.parallel)
    (hhigh : s.parallel.pwren.lat = true) : ∃ t, exec .pInit s = .next t ∧ t.activeP = true := by
  obtain ⟨hcalm, -, -⟩ := ok_calm (ok_iff.2 hlines)
  have h := exec_pInit hv hcalm
  refine ⟨_, h, activeP_iff.2 ⟨pInit_parallel h ▸ hlines.active_initialised, ?_⟩⟩
  rw [pInit_pwrenLowAt h hhigh, exec_next_params h]
  exact pInit_now_le h

/-- Settles O56: serial init reaches its phase from any state; parallel setup leaves lines on which init meets no contention, and
`LAT[PWREN]` high, so that the wait of init is a wait since the fall it makes. -/
theorem setupThenInitIsActive : Obligations.SetupThenInitIsActive := by
  constructor
  · intro s hv
    have hsetup := exec_sSetup hv
    have hvt := (congrArg Params.variant (exec_next_params hsetup)).trans hv
    have hinit := exec_sInit hvt
    have hvu := (congrArg Params.variant (exec_next_params hinit)).trans hvt
    exact ⟨_, _, hsetup, hinit, (resultsDefined_serial hvu).2 (sInit_active _)⟩
  · intro s hv
    have hsetup := exec_pSetup hv
    have hlines := pSetup_parallel hsetup
    have hvt := (congrArg Params.variant (exec_next_params hsetup)).trans hv
    obtain ⟨u, hinit, hactive⟩ :=
      pInit_active_of_off hvt (hlines ▸ linesOk_setupDriven_disabled _) (by rw [hlines]; rfl)
    have hvu := (congrArg Params.variant (exec_next_params hinit)).trans hvt
    exact ⟨_, u, hsetup, hinit, (resultsDefined_parallel hvu).2 hactive⟩

end Sys2Proof.Machine
end

section
/-! The unsafe shutdown (spec/93_implementation_defined.md U12, 95_test_vectors.md T26): where `S.DISABLE` would stop a transport
that is not started. -/

namespace Sys2Proof.Machine

/-- A shutdown is unsafe where the flag claims a transport that is not started (R117, U12). -/
theorem unsafeShutdown_iff {s : State} : s.unsafeShutdown = true ↔ s.started = true ∧ s.transport.on = false := by
  simp [State.unsafeShutdown]

/-- A serial disable whose step 1 is still to come is refused where the shutdown is unsafe (R154, U12). -/
theorem stopAt_disable_unsafe {s : State} (hu : s.unsafeShutdown = true) (h : s.params.variant = .serial) {k : Nat} (hk : k ≤ 1) :
    s.stopAt .disable k = some .busEndNotStarted := by
  simp [State.stopAt, h, hu, hk]

/-- Settles O32: a flag set over a stopped transport makes the shutdown unsafe, and no step has run yet that would clear it. -/
theorem serialDisableRefusesUnsafeShutdown : Obligations.SerialDisableRefusesUnsafeShutdown := by
  intro s hv hstarted hoff
  have hunsafe : s.unsafeShutdown = true := unsafeShutdown_iff.2 ⟨hstarted, hoff⟩
  exact exec_refused hv (stopAt_disable_unsafe hunsafe hv le_rfl)

end Sys2Proof.Machine
end
